-- ==== Sys2Proof/Word.lean ====
section
/-! DEFINITION. The bit vectors of CORE's interface and the width-tracked value (spec/00_scope.md R5 to R8,
spec/10_state.md R21, R28; spec/30_encoding.md R61, R70). -/

namespace Sys2Proof

/-- A byte: a magnitude, a raw operand, or one byte of a serialised word (R5, R6, R72). -/
abbrev Byte := BitVec 8

/-- A width field of the interface: the width itself, in 4 bits; only 1..8 are widths of valid values (R62). -/
abbrev WidthCode := BitVec 4

/-- A raw result: a plain unsigned integer of up to 64 bits (R5, R28). -/
abbrev Raw := BitVec 64

/-- A request word, REQ48 (R60). -/
abbrev ReqWord := BitVec 48

/-- A response word (R70). -/
abbrev RspWord := BitVec 80

/-- A pair (M, W) as it travels on the interface: an 8-bit magnitude field and a 4-bit width field (R21). The pair may
break the invariants R22 and R23: a port can carry any bits, and an operation that reads an invalid pair faults (R100).
Equality is equality of both fields (R27). -/
structure Value where
  mag : Byte
  width : WidthCode
  deriving DecidableEq, Repr

end Sys2Proof
end

