-- ==== Sys2Proof/Syntax.lean ====
section
/-! DEFINITION. CORE's instructions: one constructor per row of spec/opcode_table.json, in the order of
spec/30_encoding.md R64, holding exactly the operands the row reads. -/

namespace Sys2Proof

/-- The sixteen operations (R64). `a` and `b` are the value operands A and B, `r` the raw operand R and `k` the raw
width operand K (R61, R68). The fields an operation does not read are no part of it (R67). -/
inductive Instr where
  | new (r k : Byte)
  | trunc (r k : Byte)
  | ones (k : Byte)
  | cmp (a b : Value)
  | not (a : Value)
  | andv (a b : Value)
  | andr (a : Value) (r : Byte)
  | or (a b : Value)
  | sub (a b : Value)
  | sext (a : Value) (k : Byte)
  | zext (a : Value) (k : Byte)
  | concat (a b : Value)
  | width (a : Value)
  | hsb (a : Value)
  | rotr (a : Value) (r : Byte)
  | repl (a : Value) (r : Byte)
  deriving DecidableEq, Repr

end Sys2Proof
end

