-- ==== Sys2Proof/Decode.lean ====
section
/-! DEFINITION. Decoding and encoding of REQ48 (spec/30_encoding.md R60 to R69, R80) and its byte order (R72). The
decoder is total on every 48-bit word and on every byte sequence; a reserved OP is rejected by name. -/

namespace Sys2Proof

/-- Why a word or byte sequence is no instruction. -/
inductive DecodeError where
  /-- OP in 0x10..0xFF names no operation (R65): the block answers such a request with the status ILLEGAL_OP. -/
  | illegalOp (op : Byte)
  /-- Fewer than the six bytes of a request (R72). The block itself is never handed a part of a word (R42). -/
  | tooShort
  deriving DecidableEq, Repr

/-- OP, bits [7:0] (R61). -/
def reqOP (w : ReqWord) : Byte := w.extractLsb' 0 8
/-- AM, bits [15:8] (R61). -/
def reqAM (w : ReqWord) : Byte := w.extractLsb' 8 8
/-- AW, bits [19:16] (R61). -/
def reqAW (w : ReqWord) : WidthCode := w.extractLsb' 16 4
/-- BW, bits [23:20] (R61). -/
def reqBW (w : ReqWord) : WidthCode := w.extractLsb' 20 4
/-- BM, bits [31:24] (R61). -/
def reqBM (w : ReqWord) : Byte := w.extractLsb' 24 8
/-- R, bits [39:32] (R61). -/
def reqR (w : ReqWord) : Byte := w.extractLsb' 32 8
/-- K, bits [47:40] (R61). -/
def reqK (w : ReqWord) : Byte := w.extractLsb' 40 8

/-- Value operand A (R68). -/
def reqA (w : ReqWord) : Value := ⟨reqAM w, reqAW w⟩
/-- Value operand B (R68). -/
def reqB (w : ReqWord) : Value := ⟨reqBM w, reqBW w⟩

/-- The decoding procedure (R69), by the opcode map R64. -/
def decode (w : ReqWord) : Except DecodeError Instr :=
  match (reqOP w).toNat with
  | 0x00 => .ok (.new (reqR w) (reqK w))
  | 0x01 => .ok (.trunc (reqR w) (reqK w))
  | 0x02 => .ok (.ones (reqK w))
  | 0x03 => .ok (.cmp (reqA w) (reqB w))
  | 0x04 => .ok (.not (reqA w))
  | 0x05 => .ok (.andv (reqA w) (reqB w))
  | 0x06 => .ok (.andr (reqA w) (reqR w))
  | 0x07 => .ok (.or (reqA w) (reqB w))
  | 0x08 => .ok (.sub (reqA w) (reqB w))
  | 0x09 => .ok (.sext (reqA w) (reqK w))
  | 0x0A => .ok (.zext (reqA w) (reqK w))
  | 0x0B => .ok (.concat (reqA w) (reqB w))
  | 0x0C => .ok (.width (reqA w))
  | 0x0D => .ok (.hsb (reqA w))
  | 0x0E => .ok (.rotr (reqA w) (reqR w))
  | 0x0F => .ok (.repl (reqA w) (reqR w))
  | _ => .error (.illegalOp (reqOP w))

/-- A request word from its fields, K in the highest bits (R61). -/
def packRequest (op : Byte) (a b : Value) (r k : Byte) : ReqWord :=
  k ++ r ++ b.mag ++ b.width ++ a.width ++ a.mag ++ op

/-- A value operand that is not read, written as 0 (R80). -/
def noValue : Value := ⟨0, 0⟩

/-- The word an assembler writes for an instruction: fields it does not read are 0 (R80). -/
def encode : Instr → ReqWord
  | .new r k => packRequest 0x00 noValue noValue r k
  | .trunc r k => packRequest 0x01 noValue noValue r k
  | .ones k => packRequest 0x02 noValue noValue 0 k
  | .cmp a b => packRequest 0x03 a b 0 0
  | .not a => packRequest 0x04 a noValue 0 0
  | .andv a b => packRequest 0x05 a b 0 0
  | .andr a r => packRequest 0x06 a noValue r 0
  | .or a b => packRequest 0x07 a b 0 0
  | .sub a b => packRequest 0x08 a b 0 0
  | .sext a k => packRequest 0x09 a noValue 0 k
  | .zext a k => packRequest 0x0A a noValue 0 k
  | .concat a b => packRequest 0x0B a b 0 0
  | .width a => packRequest 0x0C a noValue 0 0
  | .hsb a => packRequest 0x0D a noValue 0 0
  | .rotr a r => packRequest 0x0E a noValue r 0
  | .repl a r => packRequest 0x0F a noValue r 0

/-- A word of `n` bytes as bytes, byte i holding bits [8i+7 : 8i] (R72). -/
def bytesOf {w : Nat} (n : Nat) (x : BitVec w) : List Byte :=
  (List.range n).map fun i => x.extractLsb' (8 * i) 8

/-- A request as its six bytes, lowest first (R72). -/
def requestBytes (w : ReqWord) : List Byte := bytesOf 6 w

/-- A response as its ten bytes, lowest first (R72). -/
def responseBytes (w : RspWord) : List Byte := bytesOf 10 w

/-- Decode the request at the head of a byte sequence, and give the bytes after it (R60, R72). -/
def decodeBytes : List Byte → Except DecodeError (Instr × List Byte)
  | b0 :: b1 :: b2 :: b3 :: b4 :: b5 :: rest =>
    match decode (b5 ++ b4 ++ b3 ++ b2 ++ b1 ++ b0) with
    | .ok i => .ok (i, rest)
    | .error e => .error e
  | _ => .error .tooShort

/-- The request word of an opcode-table row's word `w` of `nbits` bits: every bit at or above `nbits` is 0
(log entry 14). -/
def tableWord (nbits w : Nat) : ReqWord := BitVec.ofNat 48 (w % 2 ^ nbits)

/-- The instruction the decoder reads from a row's word, laid out as the six bytes of R72. -/
def decodeTableWord (nbits w : Nat) : Option Instr :=
  match decodeBytes (requestBytes (tableWord nbits w)) with
  | .ok (i, _) => some i
  | .error _ => none

end Sys2Proof
end

