-- ==== Sys2Proof/Config.lean ====
section
/-! DEFINITION. What this implementation fixes (spec/00_scope.md R5) and what the spec leaves open
(spec/70_reset_and_hazards.md R240; the order of two host faults in one harness line, log entry 9). -/

namespace Sys2Proof.Config

/-- MAX_WIDTH: the widest value (R5). -/
abbrev maxWidth : Nat := 8

/-- BACKING_WIDTH: the bits of the magnitude store (R5). -/
abbrev backingWidth : Nat := 8

/-- RAW_WIDTH: the width of raw results (R5). -/
abbrev rawWidth : Nat := 64

/-- The open parameter LATENCY, the time from a stable request to a stable response (R240, D20). No definition of the
model reads it: "no rule of this spec or of a model depends on it". -/
opaque latency : Nat

/-- FREE VALUE, DESIGN CHOICE (log entry 9). Where both operands of one harness line cause a host fault, of two
different kinds, the spec does not say which is reported (spec/49_host_harness.md R192, R194). For the line at a line
counter this says whether it is the first operand's. Nothing constrains it. -/
opaque firstOperandReported : Nat → Bool

end Sys2Proof.Config
end

