-- ==== Sys2Proof/Machine/Numeric.lean ====
section
/-! DEFINITION. The arithmetic primitives of spec/00_scope.md R9, on natural numbers, and the validity of a pair
(spec/10_state.md R25). A bound is applied only where a rule writes one. -/

namespace Sys2Proof

/-- The magnitude as the natural number the rules compute with (R9, R10). -/
abbrev Value.m (v : Value) : Nat := v.mag.toNat

/-- The width as a natural number (R9, R62). -/
abbrev Value.w (v : Value) : Nat := v.width.toNat

/-- valid(M, W): invariants R22 and R23 both hold (R25). -/
def Value.valid (v : Value) : Bool :=
  decide (1 ≤ v.w) && decide (v.w ≤ Config.maxWidth) && decide (v.m < 2 ^ v.w)

namespace Machine

/-- ones(w) = 2^w - 1 (R9). -/
def onesOf (w : Nat) : Nat := 2 ^ w - 1

/-- NOT8(a) = 255 - a, the complement in the 8 backing bits (R9). -/
def not8 (a : Nat) : Nat := 2 ^ Config.backingWidth - 1 - a

/-- (a - b) mod 256, the 8-bit wrapping difference of two numbers below 256 (R9). -/
def wrapSub8 (a b : Nat) : Nat := (a + 2 ^ Config.backingWidth - b) % 2 ^ Config.backingWidth

/-- The largest i below `n` with bit i of `m` set, or 0 if there is none. -/
def highestBelow : Nat → Nat → Nat
  | 0, _ => 0
  | n + 1, m => if m.testBit n then n else highestBelow n m

/-- hsb(m), for m of 1 or more: the largest i with bit i of the 8-bit m set (R9). -/
def hsbOf (m : Nat) : Nat := highestBelow Config.backingWidth m

/-- 1 ≤ K ≤ MAX_WIDTH, the check of a width operand (R63, R101). -/
def widthInRange (k : Nat) : Bool := decide (1 ≤ k) && decide (k ≤ Config.maxWidth)

end Machine
end Sys2Proof
end

