-- ==== Sys2Proof/Machine/HarnessSyntax.lean ====
section
/-! DEFINITION. The lines of the host-harness language (spec/49_host_harness.md R192 to R195). The harness is the host,
not part of the block (spec/00_scope.md R3); nothing the block does depends on it (log entry 5). -/

namespace Sys2Proof.Machine

/-- A value operand: a slot `vN` or a literal `0b...` (R192). -/
inductive ValueArg where
  | slot (n : Fin 16)
  | lit (v : Value)
  deriving DecidableEq, Repr

/-- A raw operand: an immediate below 2^64, a slot `xN`, `mag(vN)` or `wid(vN)` (R192). -/
inductive RawArg where
  | imm (n : Raw)
  | slot (n : Fin 16)
  | mag (n : Fin 16)
  | wid (n : Fin 16)
  deriving DecidableEq, Repr

/-- The operand forms of a value-result OP (R80, R193). -/
inductive ValueForm where
  | new (m w : RawArg)
  | trunc (m w : RawArg)
  | ones (w : RawArg)
  | not (a : ValueArg)
  | andv (a b : ValueArg)
  | andr (a : ValueArg) (r : RawArg)
  | or (a b : ValueArg)
  | sub (a b : ValueArg)
  | sext (a : ValueArg) (w : RawArg)
  | zext (a : ValueArg) (w : RawArg)
  | concat (a b : ValueArg)
  | rotr (a : ValueArg) (n : RawArg)
  deriving DecidableEq, Repr

/-- The operand forms of a raw-result OP (R80, R193). -/
inductive RawForm where
  | cmp (a b : ValueArg)
  | width (a : ValueArg)
  | hsb (a : ValueArg)
  | repl (a : ValueArg) (n : RawArg)
  deriving DecidableEq, Repr

/-- The host computations of R194. -/
inductive Arith where
  | mov (a : RawArg)
  | add (a b : RawArg)
  | sub (a b : RawArg)
  | shl (a b : RawArg)
  | div (a b : RawArg)
  deriving DecidableEq, Repr

/-- One line of a harness program. A value-result OP has a `v` destination and a raw-result OP an `x` destination by
their types, since the other pairings are assembly errors (R193). A target is a line number (R195). -/
inductive Line where
  | issueV (d : Fin 16) (f : ValueForm)
  | issueX (d : Fin 16) (f : RawForm)
  | arith (d : Fin 16) (c : Arith)
  | beq (a b : RawArg) (target : Nat)
  | bne (a b : RawArg) (target : Nat)
  | jmp (target : Nat)
  | haltIfEq (a b : RawArg)
  | halt
  deriving DecidableEq, Repr

end Sys2Proof.Machine
end

