-- ==== Sys2Proof/Machine/State.lean ====
section
/-! DEFINITION. The machine's state as plain data: CORE's request and response interfaces (spec/30_encoding.md R61, R70)
and the host's harness (spec/49_host_harness.md R190). CORE itself has no registers, memory or hidden state
(spec/10_state.md R20, R29 to R35). Also the fault statuses (spec/60_exceptions.md R201) and the reasons a step can stop. -/

namespace Sys2Proof.Machine

/-- The fault statuses of ST other than OK (R201). A status is reported in the response and the block goes on (R204,
R207), so none of these is a reason for the model to stop (log entry 3). -/
inductive FaultCode where
  | illegalOp
  | badOperandA
  | badOperandB
  | badWidth
  | magTooWide
  | widthMismatch
  | narrowingExtend
  | concatTooWide
  | replTooWide
  | replZeroCount
  | hsbZero
  deriving DecidableEq, Repr

/-- The response of one request: a value result, a raw result, or a fault with no result (R13, R71; log entry 4). -/
inductive Response where
  | value (v : Value)
  | raw (x : Raw)
  | fault (c : FaultCode)
  deriving DecidableEq, Repr

/-- The host faults, faults of the harness and not of CORE (R196). -/
inductive HostFault where
  /-- A slot nothing has written is read (R192). -/
  | unwritten
  /-- A raw operand above 255 for an 8-bit request field (R192). -/
  | range
  /-- A shift amount of 64 or more (R194). -/
  | shift
  /-- A division by 0 (R194). -/
  | divZero
  deriving DecidableEq, Repr

/-- The run status (R190). `line` is the number of the line that ended the run. -/
inductive Status where
  | running
  | done
  | halted (line : Nat)
  | fault (code : FaultCode) (line : Nat)
  | hostFault (kind : HostFault) (line : Nat)
  deriving DecidableEq, Repr

/-- A run of the harness: its program, its slots (`none` is the spec's state "unwritten"), its line counter and its
status (R190, R191). -/
structure Run where
  program : List Line
  v : Vector (Option Value) 16
  x : Vector (Option Raw) 16
  pc : Nat
  status : Status
  deriving DecidableEq, Repr

/-- The machine: the word on CORE's request inputs, CORE's response outputs, and the host's run in progress if one was
started (log entries 1, 5, 6). -/
structure State where
  request : ReqWord
  response : Response
  run : Option Run
  deriving DecidableEq, Repr

/-- Why a step stops. No request does: every request produces a response (spec/93_implementation_defined.md, "No
behaviour of the block is stuck"). -/
inductive Fault where
  /-- Raised by the harness's step when a run is running and its line counter lies beyond the end of its program. SAFE:
  no program the assembler accepts brings it about (R195; log entry 10). -/
  | lineOutOfProgram
  deriving DecidableEq, Repr

/-- Why an instruction has no meaning. -/
inductive Refusal where
  /-- Raised by an arm of exec whose instruction is not modelled; no arm is left so. SAFE: nothing can be proved of a run that
  would go on. -/
  | notModelled (mnemonic : String)
  deriving DecidableEq, Repr

/-- Power-up. CORE has no reset input and nothing to reset (R230, R231): the response is the function of the present
request (R36). The inputs carry 0, DESIGN CHOICE (log entry 2), which is NEW #0, #0, answered BAD_WIDTH (R101). No
harness run has been started (log entry 6). -/
def State.reset : State where
  request := 0
  response := .fault .badWidth
  run := none

end Sys2Proof.Machine
end

