-- ==== Sys2Proof/Machine/Ops.lean ====
section
/-! DEFINITION. The named operations on the state: the primitives `result_value`, `result_raw` and `raise` of
spec/00_scope.md R9. There is no trap entry and no return from one (spec/60_exceptions.md R204, R207): raising a fault
drives a status on the response and changes nothing else. -/

namespace Sys2Proof.Machine

/-- What an operation answers. -/
abbrev Result := Host.Outcome State Fault Refusal

/-- Drive the response outputs; nothing else changes (R44, R206). -/
def State.respond (s : State) (r : Response) : State := { s with response := r }

/-- Present a word on the request inputs. -/
def State.present (s : State) (w : ReqWord) : State := { s with request := w }

/-- Put a run in place of the present one. -/
def State.setRun (s : State) (r : Option Run) : State := { s with run := r }

/-- raise Fault(c): the operation ends with status c and no result (R9, R204, R205). -/
def raise (c : FaultCode) (s : State) : Result := .next (s.respond (.fault c))

/-- result_value(M, W) (R9). -/
def resultValue (m w : Nat) (s : State) : Result :=
  .next (s.respond (.value ⟨BitVec.ofNat 8 m, BitVec.ofNat 4 w⟩))

/-- result_raw(x) (R9). -/
def resultRaw (x : Nat) (s : State) : Result := .next (s.respond (.raw (BitVec.ofNat 64 x)))

end Sys2Proof.Machine
end

