-- ==== Sys2Proof/Machine/Operands.lean ====
section
/-! DEFINITION. The operand checks: value operands (spec/40_construct_compare.md R100) and width operands
(spec/30_encoding.md R63). Each check either raises its fault or goes on with the rest of the operation, so the order of
the checks in a meaning is the priority of spec/60_exceptions.md R202. -/

namespace Sys2Proof.Machine

/-- check_A (R100). -/
def checkA (a : Value) (s : State) (rest : Result) : Result :=
  if a.valid then rest else raise .badOperandA s

/-- check_B (R100). -/
def checkB (b : Value) (s : State) (rest : Result) : Result :=
  if b.valid then rest else raise .badOperandB s

/-- The check of a width operand K (R63, R101): 1 ≤ K ≤ 8, else BAD_WIDTH. -/
def checkWidth (k : Byte) (s : State) (rest : Result) : Result :=
  if widthInRange k.toNat then rest else raise .badWidth s

/-- A check of an operation's own: fault `c` where `bad` holds (R202). -/
def checkNot (bad : Bool) (c : FaultCode) (s : State) (rest : Result) : Result :=
  if bad then raise c s else rest

end Sys2Proof.Machine
end

