-- ==== Sys2Proof/Machine/Bitwise.lean ====
section
/-! DEFINITION. Bitwise operations: NOT, ANDV, ANDR, OR (spec/41_bitwise.md R120 to R123). The width policies differ by
design: own, minimum, own, maximum. -/

namespace Sys2Proof.Machine

/-- NOT (R120). -/
def execNot (a : Value) (s : State) : Result :=
  checkA a s <|
  resultValue (not8 a.m &&& onesOf a.w) a.w s

/-- ANDV (R121). -/
def execAndv (a b : Value) (s : State) : Result :=
  checkA a s <| checkB b s <|
  resultValue (a.m &&& b.m) (min a.w b.w) s

/-- ANDR (R122). -/
def execAndr (a : Value) (r : Byte) (s : State) : Result :=
  checkA a s <|
  resultValue (a.m &&& r.toNat) a.w s

/-- OR (R123). Not truncated again: both operands have passed their checks. -/
def execOr (a b : Value) (s : State) : Result :=
  checkA a s <| checkB b s <|
  resultValue (a.m ||| b.m) (max a.w b.w) s

end Sys2Proof.Machine
end

