-- ==== Sys2Proof/Machine/Flags.lean ====
section
/-! DEFINITION. CORE retains no flags (spec/10_state.md R31). What stands in their place: the status ST and the other
fields of the response word (spec/30_encoding.md R70, R71; spec/60_exceptions.md R201, R205), and CMP's coding of an
ordering (spec/40_construct_compare.md R104). -/

namespace Sys2Proof.Machine

/-- The number of a fault status (R201). 0 is OK, 12..15 are never produced. -/
def FaultCode.code : FaultCode → BitVec 4
  | .illegalOp => 1
  | .badOperandA => 2
  | .badOperandB => 3
  | .badWidth => 4
  | .magTooWide => 5
  | .widthMismatch => 6
  | .narrowingExtend => 7
  | .concatTooWide => 8
  | .replTooWide => 9
  | .replZeroCount => 10
  | .hsbZero => 11

/-- ST (R70, R71). -/
def Response.st : Response → BitVec 4
  | .value _ => 0
  | .raw _ => 0
  | .fault c => c.code

/-- RM (R71). On a fault the hardware drives 0, which is no result (R205): no claim reads it. -/
def Response.rm : Response → Byte
  | .value v => v.mag
  | .raw _ => 0
  | .fault _ => 0

/-- RW (R71). On a fault the hardware drives 0, which is no result (R205): no claim reads it. -/
def Response.rw : Response → WidthCode
  | .value v => v.width
  | .raw _ => 0
  | .fault _ => 0

/-- X (R71). On a fault the hardware drives 0, which is no result (R205): no claim reads it. -/
def Response.x : Response → Raw
  | .value _ => 0
  | .raw x => x
  | .fault _ => 0

/-- The response as one 80-bit word: X [79:16], RM [15:8], RW [7:4], ST [3:0] (R70). -/
def Response.word (r : Response) : RspWord := r.x ++ r.rm ++ r.rw ++ r.st

/-- CMP's raw result: 1 for A < B, 2 for A = B, 4 for A > B, the magnitude deciding first and then the width (R104). -/
def orderCode (am aw bm bw : Nat) : Nat :=
  if am < bm ∨ (am = bm ∧ aw < bw) then 1
  else if am = bm ∧ aw = bw then 2
  else 4

end Sys2Proof.Machine
end

