-- ==== Sys2Proof/Machine/Construct.lean ====
section
/-! DEFINITION. Construction and comparison: NEW, TRUNC, ONES, CMP (spec/40_construct_compare.md R101 to R104). -/

namespace Sys2Proof.Machine

/-- NEW (R101). -/
def execNew (r k : Byte) (s : State) : Result :=
  checkWidth k s <|
  checkNot (decide (2 ^ k.toNat ≤ r.toNat)) .magTooWide s <|
  resultValue r.toNat k.toNat s

/-- TRUNC (R102). -/
def execTrunc (r k : Byte) (s : State) : Result :=
  checkWidth k s <|
  resultValue (r.toNat &&& onesOf k.toNat) k.toNat s

/-- ONES (R103). -/
def execOnes (k : Byte) (s : State) : Result :=
  checkWidth k s <|
  resultValue (onesOf k.toNat) k.toNat s

/-- CMP (R104). -/
def execCmp (a b : Value) (s : State) : Result :=
  checkA a s <| checkB b s <|
  resultRaw (orderCode a.m a.w b.m b.w) s

end Sys2Proof.Machine
end

