-- ==== Sys2Proof/Machine/Field.lean ====
section
/-! DEFINITION. Field operations: CONCAT, WIDTH, HSB, ROTR (spec/43_field.md R160 to R163). -/

namespace Sys2Proof.Machine

/-- CONCAT (R160). A is the more-significant part. -/
def execConcat (a b : Value) (s : State) : Result :=
  checkA a s <| checkB b s <|
  checkNot (decide (Config.maxWidth < a.w + b.w)) .concatTooWide s <|
  resultValue ((a.m <<< b.w) ||| b.m) (a.w + b.w) s

/-- WIDTH (R161). -/
def execWidth (a : Value) (s : State) : Result :=
  checkA a s <|
  resultRaw a.w s

/-- HSB (R162). -/
def execHsb (a : Value) (s : State) : Result :=
  checkA a s <|
  checkNot (decide (a.m = 0)) .hsbZero s <|
  resultRaw (hsbOf a.m) s

/-- The left-shifted part of a rotation by the reduced amount `amt`: the count is taken modulo the BACKING width, not
the width, and the shift is bounded to 8 bits (R163). -/
def rotrHigh (m w amt : Nat) : Nat :=
  (m <<< ((w - amt) % Config.backingWidth)) % 2 ^ Config.backingWidth

/-- ROTR's magnitude for the amount R, first reduced modulo the width (R163). -/
def rotrMag (m w r : Nat) : Nat := ((m >>> (r % w)) ||| rotrHigh m w (r % w)) &&& onesOf w

/-- ROTR (R163). It never faults on its amount (spec/90_conflicts.md C1). -/
def execRotr (a : Value) (r : Byte) (s : State) : Result :=
  checkA a s <|
  resultValue (rotrMag a.m a.w r.toNat) a.w s

end Sys2Proof.Machine
end

