-- ==== Sys2Proof/Machine/Replicate.lean ====
section
/-! DEFINITION. Replication: REPL (spec/44_replicate.md R180). -/

namespace Sys2Proof.Machine

/-- `n` times acc <- acc OR (acc << w) (R180). -/
def tileLoop (w : Nat) : Nat → Nat → Nat
  | 0, acc => acc
  | n + 1, acc => tileLoop w n (acc ||| (acc <<< w))

/-- REPL's iteration: the count less 1 times, from the tile (R180). -/
def replRaw (m w r : Nat) : Nat := tileLoop w (r - 1) m

/-- REPL (R180). -/
def execRepl (a : Value) (r : Byte) (s : State) : Result :=
  checkA a s <|
  checkNot (decide (r.toNat = 0)) .replZeroCount s <|
  checkNot (decide (Config.rawWidth < r.toNat * a.w)) .replTooWide s <|
  resultRaw (replRaw a.m a.w r.toNat) s

end Sys2Proof.Machine
end

