-- ==== Sys2Proof/Machine/SubExtend.lean ====
section
/-! DEFINITION. Subtraction and extension: SUB, SEXT, ZEXT (spec/42_sub_extend.md R140, R142, R144). -/

namespace Sys2Proof.Machine

/-- SUB's magnitude: the 8-bit wrapping difference, truncated to the shared width (R140). -/
def subMag (am bm w : Nat) : Nat := wrapSub8 am bm &&& onesOf w

/-- SUB (R140). -/
def execSub (a b : Value) (s : State) : Result :=
  checkA a s <| checkB b s <|
  checkNot (decide (a.w ≠ b.w)) .widthMismatch s <|
  resultValue (subMag a.m b.m a.w) a.w s

/-- The sign-bit mask of a width (R142). -/
def signMask (w : Nat) : Nat := 1 <<< (w - 1)

/-- SEXT's magnitude: flip the sign bit, subtract its mask with 8-bit wrap, truncate to K (R142). -/
def sextMag (m w k : Nat) : Nat := wrapSub8 (m ^^^ signMask w) (signMask w) &&& onesOf k

/-- SEXT (R142). -/
def execSext (a : Value) (k : Byte) (s : State) : Result :=
  checkA a s <| checkWidth k s <|
  checkNot (decide (k.toNat < a.w)) .narrowingExtend s <|
  resultValue (sextMag a.m a.w k.toNat) k.toNat s

/-- ZEXT (R144). -/
def execZext (a : Value) (k : Byte) (s : State) : Result :=
  checkA a s <| checkWidth k s <|
  checkNot (decide (k.toNat < a.w)) .narrowingExtend s <|
  resultValue a.m k.toNat s

end Sys2Proof.Machine
end

