-- ==== Sys2Proof/Machine/Dispatch.lean ====
section
/-! DEFINITION. The meaning of each instruction: one arm per constructor of Instr (spec/30_encoding.md R64). -/

namespace Sys2Proof.Machine

def exec (i : Instr) (s : State) : Host.Outcome State Fault Refusal :=
  match i with
  -- spec/40_construct_compare.md
  | .new r k => Sys2Proof.Machine.execNew r k s
  | .trunc r k => Sys2Proof.Machine.execTrunc r k s
  | .ones k => Sys2Proof.Machine.execOnes k s
  | .cmp a b => Sys2Proof.Machine.execCmp a b s
  -- spec/41_bitwise.md
  | .not a => Sys2Proof.Machine.execNot a s
  | .andv a b => Sys2Proof.Machine.execAndv a b s
  | .andr a r => Sys2Proof.Machine.execAndr a r s
  | .or a b => Sys2Proof.Machine.execOr a b s
  -- spec/42_sub_extend.md
  | .sub a b => Sys2Proof.Machine.execSub a b s
  | .sext a k => Sys2Proof.Machine.execSext a k s
  | .zext a k => Sys2Proof.Machine.execZext a k s
  -- spec/43_field.md
  | .concat a b => Sys2Proof.Machine.execConcat a b s
  | .width a => Sys2Proof.Machine.execWidth a s
  | .hsb a => Sys2Proof.Machine.execHsb a s
  | .rotr a r => Sys2Proof.Machine.execRotr a r s
  -- spec/44_replicate.md
  | .repl a r => Sys2Proof.Machine.execRepl a r s

end Sys2Proof.Machine
end

