-- ==== Sys2Proof/Machine/Fetch.lean ====
section
/-! DEFINITION. How a request word reaches its meaning: CORE is handed the whole word as data (spec/20_memory.md R42,
R49), decodes it (spec/30_encoding.md R69) and answers. -/

namespace Sys2Proof.Machine

/-- The request word CORE reads: the one on its inputs. -/
def fetch (s : State) : ReqWord := s.request

/-- CORE answers the present request (R69, R232): a reserved OP with ILLEGAL_OP before any operand is looked at (R65),
every other OP with its operation. The byte-level rejection cannot come of a whole word; it raises the same status. -/
def serve (s : State) : Result :=
  match decode (fetch s) with
  | .ok i => exec i s
  | .error (.illegalOp _) => raise .illegalOp s
  | .error .tooShort => raise .illegalOp s

/-- The state in which an opcode-table row's word is the next request: the word stands on the request inputs and no
harness run is in progress, so that the next step is the block's (log entry 6). -/
def placeWord (s : State) (nbits w : Nat) : State :=
  (s.present (tableWord nbits w)).setRun none

end Sys2Proof.Machine
end

