-- ==== Sys2Proof/WellFormed.lean ====
section
/-! DEFINITION. What an assembler can write (spec/30_encoding.md R81, spec/49_host_harness.md R195). These checks bind
assemblers and program loaders only: every Instr, well formed or not, has an encoding, a decoding and a meaning, since
a port can carry any bits (spec/40_construct_compare.md R100). -/

namespace Sys2Proof

/-- The instruction can be written in assembly: its value operands are literals, so valid values (R81). -/
def Instr.wellFormed : Instr → Bool
  | .new _ _ => true
  | .trunc _ _ => true
  | .ones _ => true
  | .cmp a b => a.valid && b.valid
  | .not a => a.valid
  | .andv a b => a.valid && b.valid
  | .andr a _ => a.valid
  | .or a b => a.valid && b.valid
  | .sub a b => a.valid && b.valid
  | .sext a _ => a.valid
  | .zext a _ => a.valid
  | .concat a b => a.valid && b.valid
  | .width a => a.valid
  | .hsb a => a.valid
  | .rotr a _ => a.valid
  | .repl a _ => a.valid

namespace Machine

/-- A literal is a valid value (R81); a slot name is always well formed. -/
def ValueArg.wellFormed : ValueArg → Bool
  | .slot _ => true
  | .lit v => v.valid

/-- Every literal of the form is a valid value. -/
def ValueForm.wellFormed : ValueForm → Bool
  | .new _ _ => true
  | .trunc _ _ => true
  | .ones _ => true
  | .not a => a.wellFormed
  | .andv a b => a.wellFormed && b.wellFormed
  | .andr a _ => a.wellFormed
  | .or a b => a.wellFormed && b.wellFormed
  | .sub a b => a.wellFormed && b.wellFormed
  | .sext a _ => a.wellFormed
  | .zext a _ => a.wellFormed
  | .concat a b => a.wellFormed && b.wellFormed
  | .rotr a _ => a.wellFormed

/-- Every literal of the form is a valid value. -/
def RawForm.wellFormed : RawForm → Bool
  | .cmp a b => a.wellFormed && b.wellFormed
  | .width a => a.wellFormed
  | .hsb a => a.wellFormed
  | .repl a _ => a.wellFormed

/-- A line of a program of `n` lines: its literals are valid values, and a target is at most `n` (R195). -/
def Line.wellFormed (n : Nat) : Line → Bool
  | .issueV _ f => f.wellFormed
  | .issueX _ f => f.wellFormed
  | .arith _ _ => true
  | .beq _ _ t => decide (t ≤ n)
  | .bne _ _ t => decide (t ≤ n)
  | .jmp t => decide (t ≤ n)
  | .haltIfEq _ _ => true
  | .halt => true

/-- A program the harness's assembler accepts. -/
def programWellFormed (p : List Line) : Bool := p.all (Line.wellFormed p.length)

end Machine
end Sys2Proof
end

