-- ==== Sys2Proof/Machine/Harness.lean ====
section
/-! DEFINITION. The host harness (spec/49_host_harness.md R190 to R198): reading operands, issuing requests to CORE, host
arithmetic, control lines and sequencing. No definition of the block uses any of these (log entry 5). -/

namespace Sys2Proof.Machine

/-- What reading an operand gives. -/
abbrev Read (α : Type) := Except HostFault α

/-- The content of a slot; an unwritten one is hostfault(UNWRITTEN) (R192). -/
def readSlot {α : Type} (slot : Option α) : Read α :=
  match slot with
  | some a => .ok a
  | none => .error .unwritten

/-- A value operand (R192). -/
def readValue (run : Run) : ValueArg → Read Value
  | .slot n => readSlot run.v[n]
  | .lit v => .ok v

/-- A raw operand; `mag` and `wid` are the slot's magnitude and width as raw integers (R192). -/
def readRaw (run : Run) : RawArg → Read Raw
  | .imm n => .ok n
  | .slot n => readSlot run.x[n]
  | .mag n => (readSlot run.v[n]).map fun v => v.mag.setWidth 64
  | .wid n => (readSlot run.v[n]).map fun v => v.width.setWidth 64

/-- A raw operand for an 8-bit request field: above 255 is hostfault(RANGE), never truncated (R192);
an immediate `#n` too (DESIGN CHOICE, log entry 16). -/
def readByte (run : Run) (a : RawArg) : Read Byte :=
  match readRaw run a with
  | .ok x => if x.toNat ≤ 255 then .ok (x.setWidth 8) else .error .range
  | .error e => .error e

/-- A shift amount: 64 or more is hostfault(SHIFT) (R194). -/
def readShift (run : Run) (a : RawArg) : Read Raw :=
  match readRaw run a with
  | .ok x => if x.toNat < 64 then .ok x else .error .shift
  | .error e => .error e

/-- A divisor: 0 is hostfault(DIVZERO) (R194). -/
def readDivisor (run : Run) (a : RawArg) : Read Raw :=
  match readRaw run a with
  | .ok x => if x.toNat = 0 then .error .divZero else .ok x
  | .error e => .error e

/-- Two operands of one line. Where both fault, with different kinds, which kind is reported is free (log entry 9). -/
def both {α β : Type} (line : Nat) (a : Read α) (b : Read β) : Read (α × β) :=
  match a, b with
  | .ok x, .ok y => .ok (x, y)
  | .error e, .ok _ => .error e
  | .ok _, .error e => .error e
  | .error e, .error e' =>
    if e = e' then .error e
    else .error (if Config.firstOperandReported line then e else e')

/-- The instruction a value-result form issues (R80, R193). -/
def resolveValueForm (run : Run) : ValueForm → Read Instr
  | .new m w => (both run.pc (readByte run m) (readByte run w)).map fun p => .new p.1 p.2
  | .trunc m w => (both run.pc (readByte run m) (readByte run w)).map fun p => .trunc p.1 p.2
  | .ones w => (readByte run w).map fun k => .ones k
  | .not a => (readValue run a).map fun v => .not v
  | .andv a b => (both run.pc (readValue run a) (readValue run b)).map fun p => .andv p.1 p.2
  | .andr a r => (both run.pc (readValue run a) (readByte run r)).map fun p => .andr p.1 p.2
  | .or a b => (both run.pc (readValue run a) (readValue run b)).map fun p => .or p.1 p.2
  | .sub a b => (both run.pc (readValue run a) (readValue run b)).map fun p => .sub p.1 p.2
  | .sext a w => (both run.pc (readValue run a) (readByte run w)).map fun p => .sext p.1 p.2
  | .zext a w => (both run.pc (readValue run a) (readByte run w)).map fun p => .zext p.1 p.2
  | .concat a b => (both run.pc (readValue run a) (readValue run b)).map fun p => .concat p.1 p.2
  | .rotr a n => (both run.pc (readValue run a) (readByte run n)).map fun p => .rotr p.1 p.2

/-- The instruction a raw-result form issues (R80, R193). -/
def resolveRawForm (run : Run) : RawForm → Read Instr
  | .cmp a b => (both run.pc (readValue run a) (readValue run b)).map fun p => .cmp p.1 p.2
  | .width a => (readValue run a).map fun v => .width v
  | .hsb a => (readValue run a).map fun v => .hsb v
  | .repl a n => (both run.pc (readValue run a) (readByte run n)).map fun p => .repl p.1 p.2

/-- The value of a host computation, modulo 2^64 (R194). -/
def evalArith (run : Run) : Arith → Read Raw
  | .mov a => readRaw run a
  | .add a b => (both run.pc (readRaw run a) (readRaw run b)).map fun p =>
      BitVec.ofNat 64 (p.1.toNat + p.2.toNat)
  | .sub a b => (both run.pc (readRaw run a) (readRaw run b)).map fun p =>
      BitVec.ofInt 64 ((p.1.toNat : Int) - (p.2.toNat : Int))
  | .shl a b => (both run.pc (readRaw run a) (readShift run b)).map fun p =>
      BitVec.ofNat 64 (p.1.toNat * 2 ^ p.2.toNat)
  | .div a b => (both run.pc (readRaw run a) (readDivisor run b)).map fun p =>
      BitVec.ofNat 64 (p.1.toNat / p.2.toNat)

/-- The run goes on at line `t` (R191, R195). -/
def Run.goto (run : Run) (t : Nat) : Run := { run with pc := t }

/-- The run leaves `running`; its slots and its line counter stay (R197, R198). -/
def Run.stop (run : Run) (st : Status) : Run := { run with status := st }

/-- Write a value slot and go on at the next line (R191, R193). -/
def Run.writeV (run : Run) (d : Fin 16) (v : Value) : Run :=
  { run with v := run.v.set d (some v), pc := run.pc + 1 }

/-- Write a raw slot and go on at the next line (R191, R193, R194). -/
def Run.writeX (run : Run) (d : Fin 16) (x : Raw) : Run :=
  { run with x := run.x.set d (some x), pc := run.pc + 1 }

/-- The run after CORE's response to a block-issue line: a fault status ends it, any other response writes the
destination (R193, R198). `write` is the write of RM and RW, or of X. -/
def finishIssue (run : Run) (r : Response) (write : Response → Run) : Run :=
  match r with
  | .fault c => run.stop (.fault c run.pc)
  | .value v => write (.value v)
  | .raw x => write (.raw x)

/-- Issue a request: present its word to CORE, let CORE answer, and finish the line with the response (R193). A host
fault stops the run and the request is never issued (R192, R198). -/
def issue (run : Run) (i : Read Instr) (write : Response → Run) (s : State) : Result :=
  match i with
  | .error e => .next (s.setRun (some (run.stop (.hostFault e run.pc))))
  | .ok i =>
    match serve (s.present (encode i)) with
    | .next t => .next (t.setRun (some (finishIssue run t.response write)))
    | .fault f => .fault f
    | .refused r => .refused r

/-- A line that touches only the run: its reads give the next run, or a host fault stops it (R198). -/
def hostLine (run : Run) (r : Read Run) (s : State) : Result :=
  match r with
  | .ok run' => .next (s.setRun (some run'))
  | .error e => .next (s.setRun (some (run.stop (.hostFault e run.pc))))

/-- Whether the two operands of a control line are equal (R195). -/
def readEqual (run : Run) (a b : RawArg) : Read Bool :=
  (both run.pc (readRaw run a) (readRaw run b)).map fun p => decide (p.1 = p.2)

/-- Execute one line (R193 to R195). -/
def runLine (run : Run) (l : Line) (s : State) : Result :=
  match l with
  | .issueV d f => issue run (resolveValueForm run f) (fun r => run.writeV d ⟨r.rm, r.rw⟩) s
  | .issueX d f => issue run (resolveRawForm run f) (fun r => run.writeX d r.x) s
  | .arith d c => hostLine run ((evalArith run c).map fun x => run.writeX d x) s
  | .beq a b t => hostLine run
      ((readEqual run a b).map fun e => if e then run.goto t else run.goto (run.pc + 1)) s
  | .bne a b t => hostLine run
      ((readEqual run a b).map fun e => if e then run.goto (run.pc + 1) else run.goto t) s
  | .jmp t => hostLine run (.ok (run.goto t)) s
  | .haltIfEq a b => hostLine run
      ((readEqual run a b).map fun e =>
        if e then run.stop (.halted run.pc) else run.goto (run.pc + 1)) s
  | .halt => hostLine run (.ok (run.stop .done)) s

/-- One step of a run that is running: past the last line it is done, else its line executes (R191). A counter beyond
the program is the model's own stop (log entry 10; log entry 8 says why `done` takes a step). -/
def stepRun (run : Run) (s : State) : Result :=
  if run.pc = run.program.length then .next (s.setRun (some (run.stop .done)))
  else
    match run.program[run.pc]? with
    | some l => runLine run l s
    | none => .fault .lineOutOfProgram

/-- One step of the machine: the running harness executes a line; with no run, or after one has ended, CORE answers
the request on its inputs and the run stays as it is (R198, R232; log entry 7). -/
def advance (s : State) : Result :=
  match s.run with
  | none => serve s
  | some run =>
    match run.status with
    | .running => stepRun run s
    | .done => serve s
    | .halted _ => serve s
    | .fault _ _ => serve s
    | .hostFault _ _ => serve s

/-- A slot's start content is a valid value or none (R190). -/
def startSlotValid (slot : Option Value) : Bool :=
  match slot with
  | some v => v.valid
  | none => true

/-- The run at its start: the slots the start state lists, line 0, running (R190, R191, R234). -/
def Run.start (program : List Line) (v : Vector (Option Value) 16) (x : Vector (Option Raw) 16) : Run where
  program := program
  v := v
  x := x
  pc := 0
  status := .running

/-- Every slot unwritten (R190, R234). -/
def unwrittenSlots {α : Type} : Vector (Option α) 16 := Vector.replicate 16 none

/-- The host starts a run. A program the assembler refuses, or a start state with an invalid value, starts none
(R190, R195; log entries 6 and 15). -/
def startRun (s : State) (program : List Line) (v : Vector (Option Value) 16) (x : Vector (Option Raw) 16) :
    Option State :=
  if programWellFormed program && v.toList.all startSlotValid then some (s.setRun (some (Run.start program v x)))
  else none

end Sys2Proof.Machine
end

