-- ==== Sys2Proof/Machine/Step.lean ====
section
/-! DEFINITION. The step function, one atomic evaluation (spec/20_memory.md R43, spec/70_reset_and_hazards.md R240). -/

namespace Sys2Proof.Machine

/-- One step: a line of the running harness, or CORE's answer to the request on its inputs. -/
def step (s : State) : Host.Outcome State Fault Refusal := Sys2Proof.Machine.advance s

/-- The state in which the next step runs the opcode-table word `w` of `nbits` bits. -/
def State.withFetchWord (s : State) (nbits w : Nat) : State := Sys2Proof.Machine.placeWord s nbits w

end Sys2Proof.Machine
end

