-- ==== Sys2Proof/Laws/Decode.lean ====
section
/-! SUPPORT. The fields of a packed request word: each is the one that was packed (spec/30_encoding.md R61). -/

namespace Sys2Proof

variable (op : Byte) (a b : Value) (r k : Byte)

/-- Bit `n` of a packed word, field by field. -/
theorem packRequest_getLsbD (n : Nat) :
    (packRequest op a b r k).getLsbD n =
      if n < 8 then op.getLsbD n else if n < 16 then a.mag.getLsbD (n - 8)
      else if n < 20 then a.width.getLsbD (n - 16) else if n < 24 then b.width.getLsbD (n - 20)
      else if n < 32 then b.mag.getLsbD (n - 24) else if n < 40 then r.getLsbD (n - 32)
      else k.getLsbD (n - 40) := by
  simp only [packRequest, BitVec.getLsbD_append, Nat.sub_sub]
  split_ifs <;> first | rfl | omega

/-- A field is read back where bit `start + i` of the packed word is bit i of the field. -/
theorem extract_packRequest {len start : Nat} {f : BitVec len}
    (h : ∀ i, i < len → (packRequest op a b r k).getLsbD (start + i) = f.getLsbD i) :
    (packRequest op a b r k).extractLsb' start len = f := by
  apply BitVec.eq_of_getLsbD_eq
  intro i hi
  simp only [BitVec.getLsbD_extractLsb', hi, decide_true, Bool.true_and]
  exact h i hi

theorem reqOP_packRequest : reqOP (packRequest op a b r k) = op :=
  extract_packRequest _ _ _ _ _ fun i hi => by
    rw [packRequest_getLsbD]; split_ifs <;> first | omega | simp

theorem reqAM_packRequest : reqAM (packRequest op a b r k) = a.mag :=
  extract_packRequest _ _ _ _ _ fun i hi => by
    rw [packRequest_getLsbD]; split_ifs <;> first | omega | simp

theorem reqAW_packRequest : reqAW (packRequest op a b r k) = a.width :=
  extract_packRequest _ _ _ _ _ fun i hi => by
    rw [packRequest_getLsbD]; split_ifs <;> first | omega | simp

theorem reqBW_packRequest : reqBW (packRequest op a b r k) = b.width :=
  extract_packRequest _ _ _ _ _ fun i hi => by
    rw [packRequest_getLsbD]; split_ifs <;> first | omega | simp

theorem reqBM_packRequest : reqBM (packRequest op a b r k) = b.mag :=
  extract_packRequest _ _ _ _ _ fun i hi => by
    rw [packRequest_getLsbD]; split_ifs <;> first | omega | simp

theorem reqR_packRequest : reqR (packRequest op a b r k) = r :=
  extract_packRequest _ _ _ _ _ fun i hi => by
    rw [packRequest_getLsbD]; split_ifs <;> first | omega | simp

theorem reqK_packRequest : reqK (packRequest op a b r k) = k :=
  extract_packRequest _ _ _ _ _ fun i hi => by
    rw [packRequest_getLsbD]; split_ifs <;> first | omega | simp

/-- Masking a packed word with a packed mask masks each field. -/
theorem packRequest_and (op' : Byte) (a' b' : Value) (r' k' : Byte) :
    packRequest op a b r k &&& packRequest op' a' b' r' k' =
      packRequest (op &&& op') ⟨a.mag &&& a'.mag, a.width &&& a'.width⟩
        ⟨b.mag &&& b'.mag, b.width &&& b'.width⟩ (r &&& r') (k &&& k') := by
  apply BitVec.eq_of_getLsbD_eq
  intro n _
  simp only [BitVec.getLsbD_and, packRequest_getLsbD]
  split_ifs <;> rfl

end Sys2Proof
end

