-- ==== Sys2Proof/Machine/Assembler.lean ====
section
/-! DEFINITION. The assembler's text (spec/30_encoding.md R80 to R84) and the text of harness lines
(spec/49_host_harness.md R192 to R195). The texts are lists of characters; `none` is an assembly error. What the spec
leaves open of the text is in log entry 13. -/

namespace Sys2Proof.Machine

/-! ### Numbers and literals -/

/-- The value of a digit in bases up to 16. -/
def digitValue (c : Char) : Nat :=
  if '0' ≤ c ∧ c ≤ '9' then c.toNat - 48
  else if 'a' ≤ c ∧ c ≤ 'f' then c.toNat - 87
  else if 'A' ≤ c ∧ c ≤ 'F' then c.toNat - 55
  else 16

/-- The number the digits write after `acc`, in a base. -/
def digitsFrom (base : Nat) : List Char → Nat → Option Nat
  | [], acc => some acc
  | c :: cs, acc =>
    if digitValue c < base then digitsFrom base cs (acc * base + digitValue c) else none

/-- One or more digits in a base. -/
def parseDigits (base : Nat) (cs : List Char) : Option Nat :=
  if cs.isEmpty then none else digitsFrom base cs 0

/-- A decimal, `0x` hexadecimal or `0b` binary number (R83). -/
def parseNumber : List Char → Option Nat
  | '0' :: 'x' :: cs => parseDigits 16 cs
  | '0' :: 'b' :: cs => parseDigits 2 cs
  | cs => parseDigits 10 cs

/-- The digits of a literal: `_` may separate digits, so it stands between two of them (R81). -/
def dropSeparators (cs : List Char) : Option (List Char) :=
  if cs.head? = some '_' ∨ cs.getLast? = some '_' then none else some (cs.filter (· ≠ '_'))

/-- A value literal: `0b` and 1 to 8 binary digits; the digit count is the width and the digits are the magnitude
(R81). -/
def parseLiteral : List Char → Option Value
  | '0' :: 'b' :: cs =>
    match dropSeparators cs with
    | some ds =>
      match parseDigits 2 ds with
      | some m => if ds.length ≤ Config.maxWidth then some ⟨BitVec.ofNat 8 m, BitVec.ofNat 4 ds.length⟩ else none
      | none => none
    | none => none
  | _ => none

/-- The binary digits of a magnitude, `w` of them, most significant first. -/
def binaryDigits (m : Nat) : Nat → List Char
  | 0 => []
  | w + 1 => (if m.testBit w then '1' else '0') :: binaryDigits m w

/-- A value as a literal whose digit count is its width (R82). -/
def renderLiteral (v : Value) : List Char := '0' :: 'b' :: binaryDigits v.m v.w

/-! ### Operands -/

/-- A slot number, 0 to 15 (R190). -/
def parseSlotNumber (cs : List Char) : Option (Fin 16) :=
  match parseDigits 10 cs with
  | some n => if h : n < 16 then some ⟨n, h⟩ else none
  | none => none

/-- A value slot `vN`. -/
def parseValueSlot : List Char → Option (Fin 16)
  | 'v' :: cs => parseSlotNumber cs
  | _ => none

/-- A raw slot `xN`. -/
def parseRawSlot : List Char → Option (Fin 16)
  | 'x' :: cs => parseSlotNumber cs
  | _ => none

/-- A value slot and the closing bracket of `mag(vN)` or `wid(vN)`. -/
def parseBracketed (cs : List Char) : Option (Fin 16) :=
  if cs.getLast? = some ')' then parseValueSlot cs.dropLast else none

/-- A value operand: a slot or a literal (R81, R192). -/
def parseValueArg (cs : List Char) : Option ValueArg :=
  match parseValueSlot cs with
  | some n => some (.slot n)
  | none => (parseLiteral cs).map .lit

/-- A raw operand: `#n` below 2^64, `xN`, `mag(vN)` or `wid(vN)` (R83, R192). DESIGN CHOICE (log entry 16): a harness line
with `#n` above 255 for an 8-bit field is assembled, and stops its run with hostfault(RANGE) by R192, where R83 calls such
a number an assembly error. The text of a single request follows R83 (`assemble`). -/
def parseRawArg : List Char → Option RawArg
  | '#' :: cs =>
    match parseNumber cs with
    | some n => if n < 2 ^ Config.rawWidth then some (.imm (BitVec.ofNat 64 n)) else none
    | none => none
  | 'm' :: 'a' :: 'g' :: '(' :: cs => (parseBracketed cs).map .mag
  | 'w' :: 'i' :: 'd' :: '(' :: cs => (parseBracketed cs).map .wid
  | cs => (parseRawSlot cs).map .slot

/-- A line number `Ln` (R195). -/
def parseTarget : List Char → Option Nat
  | 'L' :: cs => parseDigits 10 cs
  | _ => none

/-! ### Splitting a text -/

/-- The characters from the first one that is no blank. -/
def dropBlanks (cs : List Char) : List Char := cs.dropWhile (· = ' ')

/-- The characters without blanks at either end. -/
def trimBlanks (cs : List Char) : List Char := (dropBlanks (dropBlanks cs).reverse).reverse

/-- The text cut at its commas. -/
def splitCommas : List Char → List (List Char)
  | [] => [[]]
  | ',' :: cs => [] :: splitCommas cs
  | c :: cs =>
    match splitCommas cs with
    | p :: ps => (c :: p) :: ps
    | [] => [[c]]

/-- The mnemonic and the operands of `MNEMONIC operand, operand` (R80). -/
def splitText (cs : List Char) : List Char × List (List Char) :=
  let cs := trimBlanks cs
  let rest := trimBlanks (cs.dropWhile (· ≠ ' '))
  (cs.takeWhile (· ≠ ' '), if rest.isEmpty then [] else (splitCommas rest).map trimBlanks)

/-! ### Forms -/

/-- One operand. -/
def form1 {α β : Type} (f : α → β) (p : List Char → Option α) : List (List Char) → Option β
  | [a] => (p a).map f
  | _ => none

/-- Two operands. -/
def form2 {α β γ : Type} (f : α → β → γ) (p : List Char → Option α) (q : List Char → Option β) :
    List (List Char) → Option γ
  | [a, b] =>
    match p a, q b with
    | some x, some y => some (f x y)
    | _, _ => none
  | _ => none

/-- A form whose result is a value; the pseudo-instruction LIT expands to NEW of its literal (R80, R84). -/
def parseValueForm (t : List Char × List (List Char)) : Option ValueForm :=
  match t.1 with
  | ['N', 'E', 'W'] => form2 .new parseRawArg parseRawArg t.2
  | ['T', 'R', 'U', 'N', 'C'] => form2 .trunc parseRawArg parseRawArg t.2
  | ['O', 'N', 'E', 'S'] => form1 .ones parseRawArg t.2
  | ['N', 'O', 'T'] => form1 .not parseValueArg t.2
  | ['A', 'N', 'D', 'V'] => form2 .andv parseValueArg parseValueArg t.2
  | ['A', 'N', 'D', 'R'] => form2 .andr parseValueArg parseRawArg t.2
  | ['O', 'R'] => form2 .or parseValueArg parseValueArg t.2
  | ['S', 'U', 'B'] => form2 .sub parseValueArg parseValueArg t.2
  | ['S', 'E', 'X', 'T'] => form2 .sext parseValueArg parseRawArg t.2
  | ['Z', 'E', 'X', 'T'] => form2 .zext parseValueArg parseRawArg t.2
  | ['C', 'O', 'N', 'C', 'A', 'T'] => form2 .concat parseValueArg parseValueArg t.2
  | ['R', 'O', 'T', 'R'] => form2 .rotr parseValueArg parseRawArg t.2
  | ['L', 'I', 'T'] =>
    form1 (fun v => .new (.imm (v.mag.setWidth 64)) (.imm (v.width.setWidth 64))) parseLiteral t.2
  | _ => none

/-- A form whose result is raw (R80). -/
def parseRawForm (t : List Char × List (List Char)) : Option RawForm :=
  match t.1 with
  | ['C', 'M', 'P'] => form2 .cmp parseValueArg parseValueArg t.2
  | ['W', 'I', 'D', 'T', 'H'] => form1 .width parseValueArg t.2
  | ['H', 'S', 'B'] => form1 .hsb parseValueArg t.2
  | ['R', 'E', 'P', 'L'] => form2 .repl parseValueArg parseRawArg t.2
  | _ => none

/-- A host computation (R194). -/
def parseArith (t : List Char × List (List Char)) : Option Arith :=
  match t.1 with
  | ['m', 'o', 'v'] => form1 .mov parseRawArg t.2
  | ['a', 'd', 'd'] => form2 .add parseRawArg parseRawArg t.2
  | ['s', 'u', 'b'] => form2 .sub parseRawArg parseRawArg t.2
  | ['s', 'h', 'l'] => form2 .shl parseRawArg parseRawArg t.2
  | ['d', 'i', 'v'] => form2 .div parseRawArg parseRawArg t.2
  | _ => none

/-- The instruction a form with constant operands writes. A slot is no constant, and a raw number above 255 is an
assembly error, never truncated (R83). -/
def constantInstr (r : Read Instr) : Option Instr :=
  match r with
  | .ok i => some i
  | .error _ => none

/-- One request in assembly text (R80 to R84). -/
def assemble (cs : List Char) : Option Instr :=
  let empty := Run.start [] unwrittenSlots unwrittenSlots
  match parseValueForm (splitText cs) with
  | some f => constantInstr (resolveValueForm empty f)
  | none =>
    match parseRawForm (splitText cs) with
    | some f => constantInstr (resolveRawForm empty f)
    | none => none

/-! ### Harness lines -/

/-- The line `d = rest` (R193, R194): a `v` destination takes a value-result OP, an `x` destination a raw-result OP or a
host computation; any other pairing is an assembly error. -/
def parseAssign (d rest : List Char) : Option Line :=
  match parseValueSlot d with
  | some n => (parseValueForm (splitText rest)).map (.issueV n)
  | none =>
    match parseRawSlot d with
    | some n =>
      match parseRawForm (splitText rest) with
      | some f => some (.issueX n f)
      | none => (parseArith (splitText rest)).map (.arith n)
    | none => none

/-- A branch: two operands and a target (R195). -/
def parseBranch (f : RawArg → RawArg → Nat → Line) : List (List Char) → Option Line
  | [a, b, t] =>
    match parseRawArg a, parseRawArg b, parseTarget t with
    | some x, some y, some n => some (f x y n)
    | _, _, _ => none
  | _ => none

/-- A control line (R195). -/
def parseControl (t : List Char × List (List Char)) : Option Line :=
  match t.1 with
  | ['b', 'e', 'q'] => parseBranch .beq t.2
  | ['b', 'n', 'e'] => parseBranch .bne t.2
  | ['j', 'm', 'p'] => form1 .jmp parseTarget t.2
  | ['h', 'a', 'l', 't', '_', 'i', 'f', '_', 'e', 'q'] => form2 .haltIfEq parseRawArg parseRawArg t.2
  | ['h', 'a', 'l', 't'] => if t.2.isEmpty then some .halt else none
  | _ => none

/-- One line of a harness program (R193 to R195). -/
def parseLine (cs : List Char) : Option Line :=
  if '=' ∈ cs then
    parseAssign (trimBlanks (cs.takeWhile (· ≠ '='))) ((cs.dropWhile (· ≠ '=')).drop 1)
  else parseControl (splitText cs)

/-- The lines of a program. -/
def parseLines : List (List Char) → Option (List Line)
  | [] => some []
  | cs :: rest =>
    match parseLine cs, parseLines rest with
    | some l, some ls => some (l :: ls)
    | _, _ => none

/-- A harness program: every line is one of the language and every target lies in the program (R195). -/
def assembleProgram (text : List (List Char)) : Option (List Line) :=
  match parseLines text with
  | some p => if programWellFormed p then some p else none
  | none => none

end Sys2Proof.Machine
end

