-- ==== Sys2Proof/Safety.lean ====
section
/-! DEFINITION. The terms claims are stated in: good states and runs (spec/10_state.md R25, R36;
spec/49_host_harness.md R190, R195), the order of the fault checks (spec/60_exceptions.md R202), the fields an operation
reads (spec/30_encoding.md R64, R67), and the two's-complement reading of a value (spec/00_scope.md R10). -/

namespace Sys2Proof

/-- The value read as a two's-complement number of its width (R9, R10). -/
def Value.signed (v : Value) : Int :=
  if v.mag.getLsbD (v.w - 1) then (v.m : Int) - 2 ^ v.w else v.m

/-- Value operand A, for the operations that read it (R100). -/
def Instr.operandA : Instr → Option Value
  | .new _ _ => none
  | .trunc _ _ => none
  | .ones _ => none
  | .cmp a _ => some a
  | .not a => some a
  | .andv a _ => some a
  | .andr a _ => some a
  | .or a _ => some a
  | .sub a _ => some a
  | .sext a _ => some a
  | .zext a _ => some a
  | .concat a _ => some a
  | .width a => some a
  | .hsb a => some a
  | .rotr a _ => some a
  | .repl a _ => some a

/-- Value operand B, for the operations that read it (R100). -/
def Instr.operandB : Instr → Option Value
  | .new _ _ => none
  | .trunc _ _ => none
  | .ones _ => none
  | .cmp _ b => some b
  | .not _ => none
  | .andv _ b => some b
  | .andr _ _ => none
  | .or _ b => some b
  | .sub _ b => some b
  | .sext _ _ => none
  | .zext _ _ => none
  | .concat _ b => some b
  | .width _ => none
  | .hsb _ => none
  | .rotr _ _ => none
  | .repl _ _ => none

/-- The bits of REQ48 an operation reads, by OP (R61, R64); for a reserved OP, the OP alone (R65). -/
def readMask (op : Byte) : ReqWord :=
  match op.toNat with
  | 0x00 => 0xFFFF000000FF
  | 0x01 => 0xFFFF000000FF
  | 0x02 => 0xFF00000000FF
  | 0x03 => 0x0000FFFFFFFF
  | 0x04 => 0x0000000FFFFF
  | 0x05 => 0x0000FFFFFFFF
  | 0x06 => 0x00FF000FFFFF
  | 0x07 => 0x0000FFFFFFFF
  | 0x08 => 0x0000FFFFFFFF
  | 0x09 => 0xFF00000FFFFF
  | 0x0A => 0xFF00000FFFFF
  | 0x0B => 0x0000FFFFFFFF
  | 0x0C => 0x0000000FFFFF
  | 0x0D => 0x0000000FFFFF
  | 0x0E => 0x00FF000FFFFF
  | 0x0F => 0x00FF000FFFFF
  | _ => 0x0000000000FF

namespace Machine

/-- The checks of an operation's own, in the order of R202, each with the condition under which it faults (R201). -/
def ownChecks : Instr → List (Bool × FaultCode)
  | .new r k =>
    [(decide (k.toNat < 1 ∨ 8 < k.toNat), .badWidth), (decide (2 ^ k.toNat ≤ r.toNat), .magTooWide)]
  | .trunc _ k => [(decide (k.toNat < 1 ∨ 8 < k.toNat), .badWidth)]
  | .ones k => [(decide (k.toNat < 1 ∨ 8 < k.toNat), .badWidth)]
  | .cmp _ _ => []
  | .not _ => []
  | .andv _ _ => []
  | .andr _ _ => []
  | .or _ _ => []
  | .sub a b => [(decide (a.width ≠ b.width), .widthMismatch)]
  | .sext a k =>
    [(decide (k.toNat < 1 ∨ 8 < k.toNat), .badWidth), (decide (k.toNat < a.w), .narrowingExtend)]
  | .zext a k =>
    [(decide (k.toNat < 1 ∨ 8 < k.toNat), .badWidth), (decide (k.toNat < a.w), .narrowingExtend)]
  | .concat a b => [(decide (8 < a.w + b.w), .concatTooWide)]
  | .width _ => []
  | .hsb a => [(decide (a.mag = 0), .hsbZero)]
  | .rotr _ _ => []
  | .repl a r => [(decide (r.toNat = 0), .replZeroCount), (decide (64 < r.toNat * a.w), .replTooWide)]

/-- The check of a value operand, if the operation reads it (R100). -/
def operandCheck (o : Option Value) (c : FaultCode) : List (Bool × FaultCode) :=
  match o with
  | some v => [(!v.valid, c)]
  | none => []

/-- The first fault of a list of checks; none if every check passes. -/
def firstFailing : List (Bool × FaultCode) → Option FaultCode
  | [] => none
  | (bad, c) :: rest => if bad then some c else firstFailing rest

/-- The first fault of an instruction in the order of R202, after ILLEGAL_OP; none if every check passes. -/
def firstFault (i : Instr) : Option FaultCode :=
  firstFailing (operandCheck i.operandA .badOperandA ++ operandCheck i.operandB .badOperandB ++ ownChecks i)

/-- The response is the function of the present request that the operation rules give (R36, R232): answering the
request again changes nothing. -/
def State.Settled (s : State) : Prop := serve s = .next s

/-- No harness run is running, so CORE answers the request on its inputs at the next step. -/
def State.Idle (s : State) : Prop := ∀ r, s.run = some r → r.status ≠ .running

/-- The harness is about to execute line `l` of the run `r`. -/
def State.AtLine (s : State) (r : Run) (l : Line) : Prop :=
  s.run = some r ∧ r.status = .running ∧ r.program[r.pc]? = some l

/-- Every written value slot holds a valid value (R25, R190). -/
def Run.SlotsValid (r : Run) : Prop := ∀ (n : Fin 16) (v : Value), r.v[n] = some v → v.valid = true

/-- A run of an assembled program from a proper start state: its slots hold valid values and its line counter is at a
line or at the end (R190, R191, R195). -/
def Run.Good (r : Run) : Prop :=
  programWellFormed r.program = true ∧ r.SlotsValid ∧ r.pc ≤ r.program.length

/-- A state whose run, if there is one, is good. -/
def State.Good (s : State) : Prop := ∀ r, s.run = some r → r.Good

/-! ### The host faults of a line's operands (R192, R194), in the order they are written -/

/-- A value operand faults if its slot is unwritten (R192). -/
def valueFaults (run : Run) : ValueArg → List HostFault
  | .slot n => if run.v[n] = none then [.unwritten] else []
  | .lit _ => []

/-- The number a raw operand stands for, if no slot of it is unwritten (R192). -/
def rawNumber (run : Run) : RawArg → Option Nat
  | .imm n => some n.toNat
  | .slot n => run.x[n].map BitVec.toNat
  | .mag n => run.v[n].map Value.m
  | .wid n => run.v[n].map Value.w

/-- A raw operand's faults, where `bad` numbers raise `k`. -/
def rawFaults (run : Run) (bad : Nat → Bool) (k : HostFault) (a : RawArg) : List HostFault :=
  match rawNumber run a with
  | none => [.unwritten]
  | some n => if bad n then [k] else []

/-- A raw operand of a host line (R194, R195). -/
def plainFaults (run : Run) (a : RawArg) : List HostFault := rawFaults run (fun _ => false) .range a

/-- A raw operand of an 8-bit request field (R192). -/
def byteFaults (run : Run) (a : RawArg) : List HostFault := rawFaults run (fun n => decide (255 < n)) .range a

/-- The faults of a line's operands. -/
def lineFaults (run : Run) : Line → List HostFault
  | .issueV _ (.new m w) => byteFaults run m ++ byteFaults run w
  | .issueV _ (.trunc m w) => byteFaults run m ++ byteFaults run w
  | .issueV _ (.ones w) => byteFaults run w
  | .issueV _ (.not a) => valueFaults run a
  | .issueV _ (.andv a b) => valueFaults run a ++ valueFaults run b
  | .issueV _ (.andr a r) => valueFaults run a ++ byteFaults run r
  | .issueV _ (.or a b) => valueFaults run a ++ valueFaults run b
  | .issueV _ (.sub a b) => valueFaults run a ++ valueFaults run b
  | .issueV _ (.sext a w) => valueFaults run a ++ byteFaults run w
  | .issueV _ (.zext a w) => valueFaults run a ++ byteFaults run w
  | .issueV _ (.concat a b) => valueFaults run a ++ valueFaults run b
  | .issueV _ (.rotr a n) => valueFaults run a ++ byteFaults run n
  | .issueX _ (.cmp a b) => valueFaults run a ++ valueFaults run b
  | .issueX _ (.width a) => valueFaults run a
  | .issueX _ (.hsb a) => valueFaults run a
  | .issueX _ (.repl a n) => valueFaults run a ++ byteFaults run n
  | .arith _ (.mov a) => plainFaults run a
  | .arith _ (.add a b) => plainFaults run a ++ plainFaults run b
  | .arith _ (.sub a b) => plainFaults run a ++ plainFaults run b
  | .arith _ (.shl a b) => plainFaults run a ++ rawFaults run (fun n => decide (64 ≤ n)) .shift b
  | .arith _ (.div a b) => plainFaults run a ++ rawFaults run (fun n => decide (n = 0)) .divZero b
  | .beq a b _ => plainFaults run a ++ plainFaults run b
  | .bne a b _ => plainFaults run a ++ plainFaults run b
  | .jmp _ => []
  | .haltIfEq a b => plainFaults run a ++ plainFaults run b
  | .halt => []

end Machine
end Sys2Proof
end

