-- ==== Sys2Proof/Laws/PerInstr.lean ====
section
/-! SUPPORT. Statements for all instructions, one lemma per constructor. Family EncodedFields: the word an assembler
writes for an instruction has 0 in every bit the instruction does not read (spec/30_encoding.md R80), and its OP is one
of the sixteen (R64). -/

namespace Sys2Proof.Laws.EncodedFields

/-- The encoded word lies within the bits its OP reads, and its OP is below 0x10. -/
def Statement (i : Instr) : Prop :=
  encode i &&& readMask (reqOP (encode i)) = encode i ∧ (reqOP (encode i)).toNat < 16

/-- A packed word lies within a mask that keeps each of its fields. -/
theorem statement_of_mask {i : Instr} {op : Byte} {a b : Value} {r k : Byte} {a' b' : Value} {r' k' : Byte}
    (hi : encode i = packRequest op a b r k) (hm : readMask op = packRequest 0xFF a' b' r' k')
    (hop : op.toNat < 16) (ha : (⟨a.mag &&& a'.mag, a.width &&& a'.width⟩ : Value) = a)
    (hb : (⟨b.mag &&& b'.mag, b.width &&& b'.width⟩ : Value) = b) (hr : r &&& r' = r) (hk : k &&& k' = k) :
    Statement i := by
  have hop' : op &&& (0xFF : Byte) = op := BitVec.and_allOnes
  rw [Statement, hi, reqOP_packRequest, hm, packRequest_and, hop', ha, hb, hr, hk]
  exact ⟨rfl, hop⟩

/-- The mask of a value operand that is read. -/
def full : Value := ⟨0xFF, 0xF⟩

/-- A field that is read is kept. -/
theorem keep (x : Byte) : x &&& (0xFF : Byte) = x := BitVec.and_allOnes

/-- A value operand that is read is kept. -/
theorem keepValue (a : Value) : (⟨a.mag &&& full.mag, a.width &&& full.width⟩ : Value) = a := by
  have hw : a.width &&& (0xF : WidthCode) = a.width := BitVec.and_allOnes
  simp only [full, keep, hw]

variable (a b : Value) (r k : Byte)

theorem new : Statement (.new r k) :=
  statement_of_mask (a' := noValue) (b' := noValue) (r' := 0xFF) (k' := 0xFF) rfl (by decide) (by decide)
    rfl rfl (keep r) (keep k)

theorem trunc : Statement (.trunc r k) :=
  statement_of_mask (a' := noValue) (b' := noValue) (r' := 0xFF) (k' := 0xFF) rfl (by decide) (by decide)
    rfl rfl (keep r) (keep k)

theorem ones : Statement (.ones k) :=
  statement_of_mask (a' := noValue) (b' := noValue) (r' := 0) (k' := 0xFF) rfl (by decide) (by decide)
    rfl rfl rfl (keep k)

theorem cmp : Statement (.cmp a b) :=
  statement_of_mask (a' := full) (b' := full) (r' := 0) (k' := 0) rfl (by decide) (by decide)
    (keepValue a) (keepValue b) rfl rfl

theorem not : Statement (.not a) :=
  statement_of_mask (a' := full) (b' := noValue) (r' := 0) (k' := 0) rfl (by decide) (by decide)
    (keepValue a) rfl rfl rfl

theorem andv : Statement (.andv a b) :=
  statement_of_mask (a' := full) (b' := full) (r' := 0) (k' := 0) rfl (by decide) (by decide)
    (keepValue a) (keepValue b) rfl rfl

theorem andr : Statement (.andr a r) :=
  statement_of_mask (a' := full) (b' := noValue) (r' := 0xFF) (k' := 0) rfl (by decide) (by decide)
    (keepValue a) rfl (keep r) rfl

theorem or : Statement (.or a b) :=
  statement_of_mask (a' := full) (b' := full) (r' := 0) (k' := 0) rfl (by decide) (by decide)
    (keepValue a) (keepValue b) rfl rfl

theorem sub : Statement (.sub a b) :=
  statement_of_mask (a' := full) (b' := full) (r' := 0) (k' := 0) rfl (by decide) (by decide)
    (keepValue a) (keepValue b) rfl rfl

theorem sext : Statement (.sext a k) :=
  statement_of_mask (a' := full) (b' := noValue) (r' := 0) (k' := 0xFF) rfl (by decide) (by decide)
    (keepValue a) rfl rfl (keep k)

theorem zext : Statement (.zext a k) :=
  statement_of_mask (a' := full) (b' := noValue) (r' := 0) (k' := 0xFF) rfl (by decide) (by decide)
    (keepValue a) rfl rfl (keep k)

theorem concat : Statement (.concat a b) :=
  statement_of_mask (a' := full) (b' := full) (r' := 0) (k' := 0) rfl (by decide) (by decide)
    (keepValue a) (keepValue b) rfl rfl

theorem width : Statement (.width a) :=
  statement_of_mask (a' := full) (b' := noValue) (r' := 0) (k' := 0) rfl (by decide) (by decide)
    (keepValue a) rfl rfl rfl

theorem hsb : Statement (.hsb a) :=
  statement_of_mask (a' := full) (b' := noValue) (r' := 0) (k' := 0) rfl (by decide) (by decide)
    (keepValue a) rfl rfl rfl

theorem rotr : Statement (.rotr a r) :=
  statement_of_mask (a' := full) (b' := noValue) (r' := 0xFF) (k' := 0) rfl (by decide) (by decide)
    (keepValue a) rfl (keep r) rfl

theorem repl : Statement (.repl a r) :=
  statement_of_mask (a' := full) (b' := noValue) (r' := 0xFF) (k' := 0) rfl (by decide) (by decide)
    (keepValue a) rfl (keep r) rfl

end Sys2Proof.Laws.EncodedFields
end

