-- ==== Sys2Proof/Certificates/Slice0/Obligations.lean ====
section
/-! DEFINITION. The statements for the provers. Each docstring names the rules it formalises. Next states are written
out with all their fields (`{ s with … }`), so that each says what an operation leaves unchanged. -/

open Sys2Proof Sys2Proof.Machine

/-! ### The sixteen operations (spec/40 to spec/44)

Each statement has the decoding of the operation's words first (R61, R64, R67), then its result, then its faults. -/

/-- R101: NEW. -/
def Obligations.NewValidatesWidthThenMagnitude : Prop :=
  (∀ w : ReqWord, w.extractLsb' 0 8 = 0x00#8 → decode w = .ok (.new (w.extractLsb' 32 8) (w.extractLsb' 40 8))) ∧
  ∀ (r k : Byte) (s : State),
    (1 ≤ k.toNat → k.toNat ≤ 8 → (∀ i, k.toNat ≤ i → r.getLsbD i = false) →
      exec (.new r k) s = .next { s with response := .value ⟨r, k.setWidth 4⟩ }) ∧
    (k.toNat < 1 ∨ 8 < k.toNat → exec (.new r k) s = .next { s with response := .fault .badWidth }) ∧
    (1 ≤ k.toNat → k.toNat ≤ 8 → (∃ i, k.toNat ≤ i ∧ r.getLsbD i = true) →
      exec (.new r k) s = .next { s with response := .fault .magTooWide })

/-- R102: TRUNC. -/
def Obligations.TruncClearsBitsFromTheWidthUp : Prop :=
  (∀ w : ReqWord, w.extractLsb' 0 8 = 0x01#8 → decode w = .ok (.trunc (w.extractLsb' 32 8) (w.extractLsb' 40 8))) ∧
  ∀ (r k : Byte) (s : State),
    (1 ≤ k.toNat → k.toNat ≤ 8 → ∃ m : Byte,
      exec (.trunc r k) s = .next { s with response := .value ⟨m, k.setWidth 4⟩ } ∧
      ∀ i < 8, m.getLsbD i = (decide (i < k.toNat) && r.getLsbD i)) ∧
    (k.toNat < 1 ∨ 8 < k.toNat → exec (.trunc r k) s = .next { s with response := .fault .badWidth })

/-- R103: ONES. -/
def Obligations.OnesSetsAllBitsOfTheWidth : Prop :=
  (∀ w : ReqWord, w.extractLsb' 0 8 = 0x02#8 → decode w = .ok (.ones (w.extractLsb' 40 8))) ∧
  ∀ (k : Byte) (s : State),
    (1 ≤ k.toNat → k.toNat ≤ 8 →
      exec (.ones k) s = .next { s with response := .value ⟨BitVec.ofNat 8 (2 ^ k.toNat - 1), k.setWidth 4⟩ }) ∧
    (k.toNat < 1 ∨ 8 < k.toNat → exec (.ones k) s = .next { s with response := .fault .badWidth })

/-- R104: CMP. -/
def Obligations.CmpOrdersByMagnitudeThenWidth : Prop :=
  (∀ w : ReqWord, w.extractLsb' 0 8 = 0x03#8 → decode w =
    .ok (.cmp ⟨w.extractLsb' 8 8, w.extractLsb' 16 4⟩ ⟨w.extractLsb' 24 8, w.extractLsb' 20 4⟩)) ∧
  ∀ (a b : Value) (s : State),
    (a.valid = true → b.valid = true → (a.mag < b.mag ∨ (a.mag = b.mag ∧ a.width < b.width)) →
      exec (.cmp a b) s = .next { s with response := .raw 1 }) ∧
    (a.valid = true → b.valid = true → a = b → exec (.cmp a b) s = .next { s with response := .raw 2 }) ∧
    (a.valid = true → b.valid = true → (b.mag < a.mag ∨ (a.mag = b.mag ∧ b.width < a.width)) →
      exec (.cmp a b) s = .next { s with response := .raw 4 }) ∧
    (a.valid = false → exec (.cmp a b) s = .next { s with response := .fault .badOperandA }) ∧
    (a.valid = true → b.valid = false → exec (.cmp a b) s = .next { s with response := .fault .badOperandB })

/-- R120: NOT. -/
def Obligations.NotComplementsWithinTheWidth : Prop :=
  (∀ w : ReqWord, w.extractLsb' 0 8 = 0x04#8 → decode w = .ok (.not ⟨w.extractLsb' 8 8, w.extractLsb' 16 4⟩)) ∧
  ∀ (a : Value) (s : State),
    (a.valid = true → ∃ m : Byte, exec (.not a) s = .next { s with response := .value ⟨m, a.width⟩ } ∧
      ∀ i < 8, m.getLsbD i = (decide (i < a.width.toNat) && !a.mag.getLsbD i)) ∧
    (a.valid = false → exec (.not a) s = .next { s with response := .fault .badOperandA })

/-- R121: ANDV, with the minimum of the widths. -/
def Obligations.AndvTakesTheNarrowerWidth : Prop :=
  (∀ w : ReqWord, w.extractLsb' 0 8 = 0x05#8 → decode w =
    .ok (.andv ⟨w.extractLsb' 8 8, w.extractLsb' 16 4⟩ ⟨w.extractLsb' 24 8, w.extractLsb' 20 4⟩)) ∧
  ∀ (a b : Value) (s : State),
    (a.valid = true → b.valid = true → exec (.andv a b) s =
      .next { s with response := .value ⟨a.mag &&& b.mag, if a.width ≤ b.width then a.width else b.width⟩ }) ∧
    (a.valid = false → exec (.andv a b) s = .next { s with response := .fault .badOperandA }) ∧
    (a.valid = true → b.valid = false → exec (.andv a b) s = .next { s with response := .fault .badOperandB })

/-- R122: ANDR, with A's own width. -/
def Obligations.AndrKeepsTheOwnWidth : Prop :=
  (∀ w : ReqWord, w.extractLsb' 0 8 = 0x06#8 → decode w =
    .ok (.andr ⟨w.extractLsb' 8 8, w.extractLsb' 16 4⟩ (w.extractLsb' 32 8))) ∧
  ∀ (a : Value) (r : Byte) (s : State),
    (a.valid = true → exec (.andr a r) s = .next { s with response := .value ⟨a.mag &&& r, a.width⟩ }) ∧
    (a.valid = false → exec (.andr a r) s = .next { s with response := .fault .badOperandA })

/-- R123: OR, with the maximum of the widths. -/
def Obligations.OrTakesTheWiderWidth : Prop :=
  (∀ w : ReqWord, w.extractLsb' 0 8 = 0x07#8 → decode w =
    .ok (.or ⟨w.extractLsb' 8 8, w.extractLsb' 16 4⟩ ⟨w.extractLsb' 24 8, w.extractLsb' 20 4⟩)) ∧
  ∀ (a b : Value) (s : State),
    (a.valid = true → b.valid = true → exec (.or a b) s =
      .next { s with response := .value ⟨a.mag ||| b.mag, if a.width ≤ b.width then b.width else a.width⟩ }) ∧
    (a.valid = false → exec (.or a b) s = .next { s with response := .fault .badOperandA }) ∧
    (a.valid = true → b.valid = false → exec (.or a b) s = .next { s with response := .fault .badOperandB })

/-- R140: SUB; its result by R141's law, (AM - BM) mod 2^W. -/
def Obligations.SubWrapsModuloTheWidth : Prop :=
  (∀ w : ReqWord, w.extractLsb' 0 8 = 0x08#8 → decode w =
    .ok (.sub ⟨w.extractLsb' 8 8, w.extractLsb' 16 4⟩ ⟨w.extractLsb' 24 8, w.extractLsb' 20 4⟩)) ∧
  ∀ (a b : Value) (s : State),
    (a.valid = true → b.valid = true → a.width = b.width → ∃ m : Byte,
      exec (.sub a b) s = .next { s with response := .value ⟨m, a.width⟩ } ∧
      (m.toNat : Int) = ((a.mag.toNat : Int) - (b.mag.toNat : Int)) % 2 ^ a.width.toNat) ∧
    (a.valid = false → exec (.sub a b) s = .next { s with response := .fault .badOperandA }) ∧
    (a.valid = true → b.valid = false → exec (.sub a b) s = .next { s with response := .fault .badOperandB }) ∧
    (a.valid = true → b.valid = true → a.width ≠ b.width →
      exec (.sub a b) s = .next { s with response := .fault .widthMismatch })

/-- R141: SUB's result read as a two's-complement number of the width: the exact difference where that fits, and the
difference wrapped by 2^W otherwise. -/
def Obligations.SubIsTwosComplementSubtraction : Prop :=
  ∀ (a b : Value) (s : State), a.valid = true → b.valid = true → a.width = b.width → ∃ v : Value,
    exec (.sub a b) s = .next { s with response := .value v } ∧ v.width = a.width ∧
    (v.mag.toNat : Int) = ((a.mag.toNat : Int) - (b.mag.toNat : Int)) % 2 ^ a.width.toNat ∧
    (-2 ^ (a.width.toNat - 1) ≤ a.signed - b.signed → a.signed - b.signed ≤ 2 ^ (a.width.toNat - 1) - 1 →
      v.signed = a.signed - b.signed) ∧
    (a.signed - b.signed < -2 ^ (a.width.toNat - 1) → v.signed = a.signed - b.signed + 2 ^ a.width.toNat) ∧
    (2 ^ (a.width.toNat - 1) - 1 < a.signed - b.signed → v.signed = a.signed - b.signed - 2 ^ a.width.toNat)

/-- R142: SEXT; its result bit by bit: A's bits, then A's sign bit up to the new width. -/
def Obligations.SextFillsWithTheSignBit : Prop :=
  (∀ w : ReqWord, w.extractLsb' 0 8 = 0x09#8 → decode w =
    .ok (.sext ⟨w.extractLsb' 8 8, w.extractLsb' 16 4⟩ (w.extractLsb' 40 8))) ∧
  ∀ (a : Value) (k : Byte) (s : State),
    (a.valid = true → a.width.toNat ≤ k.toNat → k.toNat ≤ 8 → ∃ m : Byte,
      exec (.sext a k) s = .next { s with response := .value ⟨m, k.setWidth 4⟩ } ∧
      ∀ i < 8, m.getLsbD i = (decide (i < k.toNat) &&
        if i < a.width.toNat then a.mag.getLsbD i else a.mag.getLsbD (a.width.toNat - 1))) ∧
    (a.valid = false → exec (.sext a k) s = .next { s with response := .fault .badOperandA }) ∧
    (a.valid = true → (k.toNat < 1 ∨ 8 < k.toNat) →
      exec (.sext a k) s = .next { s with response := .fault .badWidth }) ∧
    (a.valid = true → 1 ≤ k.toNat → k.toNat < a.width.toNat →
      exec (.sext a k) s = .next { s with response := .fault .narrowingExtend })

/-- R143: SEXT's closed form: AM, or AM + (2^K - 2^AW) where the sign bit is set. -/
def Obligations.SextHasTheClosedForm : Prop :=
  ∀ (a : Value) (k : Byte) (s : State), a.valid = true → a.width.toNat ≤ k.toNat → k.toNat ≤ 8 → ∃ v : Value,
    exec (.sext a k) s = .next { s with response := .value v } ∧ v.width = k.setWidth 4 ∧
    (a.mag.getLsbD (a.width.toNat - 1) = false → v.mag = a.mag) ∧
    (a.mag.getLsbD (a.width.toNat - 1) = true →
      v.mag.toNat = a.mag.toNat + (2 ^ k.toNat - 2 ^ a.width.toNat)) ∧
    v.signed = a.signed

/-- R144: ZEXT. -/
def Obligations.ZextKeepsTheMagnitude : Prop :=
  (∀ w : ReqWord, w.extractLsb' 0 8 = 0x0A#8 → decode w =
    .ok (.zext ⟨w.extractLsb' 8 8, w.extractLsb' 16 4⟩ (w.extractLsb' 40 8))) ∧
  ∀ (a : Value) (k : Byte) (s : State),
    (a.valid = true → a.width.toNat ≤ k.toNat → k.toNat ≤ 8 →
      exec (.zext a k) s = .next { s with response := .value ⟨a.mag, k.setWidth 4⟩ }) ∧
    (a.valid = false → exec (.zext a k) s = .next { s with response := .fault .badOperandA }) ∧
    (a.valid = true → (k.toNat < 1 ∨ 8 < k.toNat) →
      exec (.zext a k) s = .next { s with response := .fault .badWidth }) ∧
    (a.valid = true → 1 ≤ k.toNat → k.toNat < a.width.toNat →
      exec (.zext a k) s = .next { s with response := .fault .narrowingExtend })

/-- R160 (and R11): CONCAT; A's bits stand above B's. -/
def Obligations.ConcatPutsAAboveB : Prop :=
  (∀ w : ReqWord, w.extractLsb' 0 8 = 0x0B#8 → decode w =
    .ok (.concat ⟨w.extractLsb' 8 8, w.extractLsb' 16 4⟩ ⟨w.extractLsb' 24 8, w.extractLsb' 20 4⟩)) ∧
  ∀ (a b : Value) (s : State),
    (a.valid = true → b.valid = true → a.width.toNat + b.width.toNat ≤ 8 → ∃ m : Byte,
      exec (.concat a b) s = .next { s with response := .value ⟨m, a.width + b.width⟩ } ∧
      ∀ i < 8, m.getLsbD i =
        if i < b.width.toNat then b.mag.getLsbD i else a.mag.getLsbD (i - b.width.toNat)) ∧
    (a.valid = false → exec (.concat a b) s = .next { s with response := .fault .badOperandA }) ∧
    (a.valid = true → b.valid = false → exec (.concat a b) s = .next { s with response := .fault .badOperandB }) ∧
    (a.valid = true → b.valid = true → 8 < a.width.toNat + b.width.toNat →
      exec (.concat a b) s = .next { s with response := .fault .concatTooWide })

/-- R161: WIDTH. -/
def Obligations.WidthReturnsTheDeclaredWidth : Prop :=
  (∀ w : ReqWord, w.extractLsb' 0 8 = 0x0C#8 → decode w = .ok (.width ⟨w.extractLsb' 8 8, w.extractLsb' 16 4⟩)) ∧
  ∀ (a : Value) (s : State),
    (a.valid = true → exec (.width a) s = .next { s with response := .raw (a.width.setWidth 64) }) ∧
    (a.valid = false → exec (.width a) s = .next { s with response := .fault .badOperandA })

/-- R162: HSB. -/
def Obligations.HsbFindsTheHighestSetBit : Prop :=
  (∀ w : ReqWord, w.extractLsb' 0 8 = 0x0D#8 → decode w = .ok (.hsb ⟨w.extractLsb' 8 8, w.extractLsb' 16 4⟩)) ∧
  ∀ (a : Value) (s : State),
    (a.valid = true → a.mag ≠ 0 → ∃ n : Nat, n < a.width.toNat ∧
      exec (.hsb a) s = .next { s with response := .raw (BitVec.ofNat 64 n) } ∧
      a.mag.getLsbD n = true ∧ ∀ j, n < j → a.mag.getLsbD j = false) ∧
    (a.valid = false → exec (.hsb a) s = .next { s with response := .fault .badOperandA }) ∧
    (a.valid = true → a.mag = 0 → exec (.hsb a) s = .next { s with response := .fault .hsbZero })

/-- R163, R164: ROTR; its result by the closed form: bit i is bit (i + R mod W) mod W of A. -/
def Obligations.RotrRotatesWithinTheWidth : Prop :=
  (∀ w : ReqWord, w.extractLsb' 0 8 = 0x0E#8 → decode w =
    .ok (.rotr ⟨w.extractLsb' 8 8, w.extractLsb' 16 4⟩ (w.extractLsb' 32 8))) ∧
  ∀ (a : Value) (r : Byte) (s : State),
    (a.valid = true → ∃ m : Byte, exec (.rotr a r) s = .next { s with response := .value ⟨m, a.width⟩ } ∧
      m.toNat = (a.mag.toNat >>> (r.toNat % a.width.toNat) |||
        a.mag.toNat <<< (a.width.toNat - r.toNat % a.width.toNat)) % 2 ^ a.width.toNat ∧
      ∀ i < 8, m.getLsbD i = (decide (i < a.width.toNat) &&
        a.mag.getLsbD ((i + r.toNat % a.width.toNat) % a.width.toNat))) ∧
    (a.valid = false → exec (.rotr a r) s = .next { s with response := .fault .badOperandA })

/-- R180, R181: REPL; its result by the closed form: the sum of R tiles, tile i at bit i times W. -/
def Obligations.ReplTilesTheValue : Prop :=
  (∀ w : ReqWord, w.extractLsb' 0 8 = 0x0F#8 → decode w =
    .ok (.repl ⟨w.extractLsb' 8 8, w.extractLsb' 16 4⟩ (w.extractLsb' 32 8))) ∧
  ∀ (a : Value) (r : Byte) (s : State),
    (a.valid = true → r ≠ 0 → r.toNat * a.width.toNat ≤ 64 → ∃ x : Raw,
      exec (.repl a r) s = .next { s with response := .raw x } ∧
      x.toNat = ((List.range r.toNat).map fun i => a.mag.toNat * 2 ^ (i * a.width.toNat)).sum ∧
      ∀ j < 64, x.getLsbD j =
        (decide (j < r.toNat * a.width.toNat) && a.mag.getLsbD (j % a.width.toNat))) ∧
    (a.valid = false → exec (.repl a r) s = .next { s with response := .fault .badOperandA }) ∧
    (a.valid = true → r = 0 → exec (.repl a r) s = .next { s with response := .fault .replZeroCount }) ∧
    (a.valid = true → 64 < r.toNat * a.width.toNat →
      exec (.repl a r) s = .next { s with response := .fault .replTooWide })

/-! ### Values, laws of the operations -/

/-- R22, R23, R25: validity is the two invariants. -/
def Obligations.ValidMeansBothInvariants : Prop :=
  ∀ v : Value, v.valid = true ↔
    (1 ≤ v.width.toNat ∧ v.width.toNat ≤ 8 ∧ ∀ i, v.width.toNat ≤ i → v.mag.getLsbD i = false)

/-- R25: every value result is valid. -/
def Obligations.ValueResultsAreValid : Prop :=
  ∀ (i : Instr) (s t : State) (v : Value), exec i s = .next t → t.response = .value v → v.valid = true

/-- R104, R27: CMP's outcomes form a total order whose equality is equality of values. -/
def Obligations.CmpIsATotalOrder : Prop :=
  ∀ (a b c : Value) (s : State), a.valid = true → b.valid = true → c.valid = true →
    (exec (.cmp a b) s = .next { s with response := .raw 2 } ↔ a = b) ∧
    (exec (.cmp a b) s = .next { s with response := .raw 1 } ↔
      exec (.cmp b a) s = .next { s with response := .raw 4 }) ∧
    (exec (.cmp a b) s = .next { s with response := .raw 1 } →
      exec (.cmp b c) s = .next { s with response := .raw 1 } →
      exec (.cmp a c) s = .next { s with response := .raw 1 }) ∧
    ∃ x : Raw, (x = 1 ∨ x = 2 ∨ x = 4) ∧ exec (.cmp a b) s = .next { s with response := .raw x }

/-- R120, R121, R123: NOT undoes itself; ANDV and OR of valid operands do not depend on their order. -/
def Obligations.BitwiseLaws : Prop :=
  (∀ (a : Value) (s : State), a.valid = true → ∃ v : Value,
    exec (.not a) s = .next { s with response := .value v } ∧
    exec (.not v) s = .next { s with response := .value a }) ∧
  ∀ (a b : Value) (s : State), a.valid = true → b.valid = true →
    exec (.andv a b) s = exec (.andv b a) s ∧ exec (.or a b) s = exec (.or b a) s

/-- R102, R144: TRUNC to a value's own width recovers its magnitude, from the zero extension of the value too. -/
def Obligations.TruncUndoesZext : Prop :=
  ∀ (a : Value) (k : Byte) (s : State), a.valid = true → a.width.toNat ≤ k.toNat → k.toNat ≤ 8 → ∃ v : Value,
    exec (.zext a k) s = .next { s with response := .value v } ∧ v.valid = true ∧
    exec (.trunc v.mag (a.width.setWidth 8)) s = .next { s with response := .value a }

/-- R103, R122, R102: ONES and ANDR bit by bit, for every legal width and for every mask, and ANDR of a value with the mask
ONES gives has the magnitude TRUNC gives ("Defined as `ones(width) AND magnitude`"), in A's own width. -/
def Obligations.AndrWithOnesMasksAsTrunc : Prop :=
  (∀ (k : Byte) (s : State), 1 ≤ k.toNat → k.toNat ≤ 8 → ∃ o : Value, o.valid = true ∧ o.width = k.setWidth 4 ∧
    exec (.ones k) s = .next { s with response := .value o } ∧
    ∀ i < 8, o.mag.getLsbD i = decide (i < k.toNat)) ∧
  (∀ (a : Value) (r : Byte) (s : State), a.valid = true → ∃ v : Value, v.valid = true ∧ v.width = a.width ∧
    exec (.andr a r) s = .next { s with response := .value v } ∧
    ∀ i < 8, v.mag.getLsbD i = (a.mag.getLsbD i && r.getLsbD i)) ∧
  ∀ (a : Value) (k : Byte) (s : State), a.valid = true → 1 ≤ k.toNat → k.toNat ≤ 8 → ∃ o v t : Value,
    exec (.ones k) s = .next { s with response := .value o } ∧
    exec (.andr a o.mag) s = .next { s with response := .value v } ∧
    exec (.trunc a.mag k) s = .next { s with response := .value t } ∧ v.mag = t.mag ∧ v.width = a.width

/-! ### Faults (spec/60) -/

/-- R100: value operands are checked first, A then B, and only the operations that read one check it. -/
def Obligations.OperandsAreCheckedFirst : Prop :=
  ∀ (i : Instr) (s : State),
    (exec i s = .next { s with response := .fault .badOperandA } ↔ ∃ a, i.operandA = some a ∧ a.valid = false) ∧
    (exec i s = .next { s with response := .fault .badOperandB } ↔
      (∀ a, i.operandA = some a → a.valid = true) ∧ ∃ b, i.operandB = some b ∧ b.valid = false)

/-- R202, R203: of several faults the first in the order ILLEGAL_OP, A, B, own checks is reported, and a request whose
checks all pass has a valid value or a raw result. -/
def Obligations.FaultPriority : Prop :=
  ∀ s : State, s.Idle →
    (0x10 ≤ (s.request.extractLsb' 0 8).toNat → step s = .next { s with response := .fault .illegalOp }) ∧
    ∀ i, decode s.request = .ok i →
      (∀ c, firstFault i = some c → step s = .next { s with response := .fault c }) ∧
      (firstFault i = none →
        (∃ v : Value, v.valid = true ∧ step s = .next { s with response := .value v }) ∨
        ∃ x : Raw, step s = .next { s with response := .raw x })

/-- R65: a reserved OP is no instruction, and its request is answered ILLEGAL_OP whatever its other fields hold. -/
def Obligations.ReservedOpcodesAreIllegal : Prop :=
  ∀ w : ReqWord, (decode w = .error (.illegalOp (w.extractLsb' 0 8)) ↔ 0x10 ≤ (w.extractLsb' 0 8).toNat) ∧
    (0x10 ≤ (w.extractLsb' 0 8).toNat → ∀ s : State, s.Idle →
      step { s with request := w } = .next { s with request := w, response := .fault .illegalOp })

/-- R201: the status codes; 0 is OK and 12 to 15 are never produced. -/
def Obligations.StatusCodes : Prop :=
  (∀ (v : Value) (x : Raw), (Response.value v).st = 0 ∧ (Response.raw x).st = 0) ∧
  (∀ r : Response, r.st.toNat ≤ 11) ∧
  (∀ c d : FaultCode, (Response.fault c).st = (Response.fault d).st → c = d) ∧
  [FaultCode.illegalOp, .badOperandA, .badOperandB, .badWidth, .magTooWide, .widthMismatch, .narrowingExtend,
    .concatTooWide, .replTooWide, .replZeroCount, .hsbZero].map (fun c => (Response.fault c).st.toNat) =
    [1, 2, 3, 4, 5, 6, 7, 8, 9, 10, 11]

/-- R70, R71: the response word of a success. (No statement reads RM, RW or X of a fault: R13, R205.) -/
def Obligations.ResponseWordLayout : Prop :=
  (∀ v : Value, (Response.value v).word.extractLsb' 0 4 = 0#4 ∧
    (Response.value v).word.extractLsb' 4 4 = v.width ∧ (Response.value v).word.extractLsb' 8 8 = v.mag ∧
    (Response.value v).word.extractLsb' 16 64 = 0#64) ∧
  (∀ x : Raw, (Response.raw x).word.extractLsb' 0 4 = 0#4 ∧ (Response.raw x).word.extractLsb' 4 4 = 0#4 ∧
    (Response.raw x).word.extractLsb' 8 8 = 0#8 ∧ (Response.raw x).word.extractLsb' 16 64 = x) ∧
  ∀ c : FaultCode, (Response.fault c).word.extractLsb' 0 4 = c.code

/-! ### Encoding (spec/30) -/

/-- R61, R64, R80: decoding an encoded instruction gives it back, for every operand the encoding admits. -/
def Obligations.DecodeOfEncode : Prop := ∀ i : Instr, decode (encode i) = .ok i

/-- R67, R80: encoding a decoded instruction gives the word back, with the fields it does not read at 0. -/
def Obligations.EncodeOfDecode : Prop :=
  ∀ (w : ReqWord) (i : Instr), decode w = .ok i → encode i = w &&& readMask (w.extractLsb' 0 8)

/-- R67: two requests that agree on the fields their operation reads are answered alike. -/
def Obligations.UnreadFieldsAreIgnored : Prop :=
  ∀ w w' : ReqWord, w &&& readMask (w.extractLsb' 0 8) = w' &&& readMask (w.extractLsb' 0 8) →
    decode w = decode w' ∧ ∀ s : State, s.Idle → ∃ r : Response,
      step { s with request := w } = .next { s with request := w, response := r } ∧
      step { s with request := w' } = .next { s with request := w', response := r }

/-- R80: the encoded word has 0 in every bit its operation does not read. -/
def Obligations.EncodedWordsZeroUnreadFields : Prop := ∀ i : Instr, Laws.EncodedFields.Statement i

/-- R72: byte i of a word holds its bits [8i+7 : 8i]; the bytes of a request decode as the word does. -/
def Obligations.BytesAreLittleEndian : Prop :=
  (∀ (w : ReqWord) (i : Nat), i < 6 → (requestBytes w)[i]? = some (w.extractLsb' (8 * i) 8)) ∧
  (∀ (w : RspWord) (i : Nat), i < 10 → (responseBytes w)[i]? = some (w.extractLsb' (8 * i) 8)) ∧
  (∀ (w : ReqWord) (w' : RspWord), (requestBytes w).length = 6 ∧ (responseBytes w').length = 10) ∧
  ∀ (w : ReqWord) (rest : List Byte),
    decodeBytes (requestBytes w ++ rest) = (decode w).map fun i => (i, rest)

/-- R85: words written out in the spec, one of each family. -/
def Obligations.ExampleWordsDecode : Prop :=
  decode 0x040500000000 = .ok (.new 5 4) ∧
  decode 0x000005430503 = .ok (.cmp ⟨5, 3⟩ ⟨5, 4⟩) ∧
  decode 0x000600040B06 = .ok (.andr ⟨11, 4⟩ 6) ∧
  decode 0x080000030509 = .ok (.sext ⟨5, 3⟩ 8) ∧
  decode 0x00000F61000B = .ok (.concat ⟨0, 1⟩ ⟨15, 6⟩) ∧
  decode 0x000300040A0F = .ok (.repl ⟨10, 4⟩ 3)

/-- R81, R82: a literal that parses is a valid value; every valid value is written as `0b` and as many digits as its
width, and that text is read back as the value. Where `_` may stand in a literal is the model's choice (log entry 13). -/
def Obligations.LiteralsCarryTheirWidth : Prop :=
  (∀ (cs : List Char) (v : Value), parseLiteral cs = some v → v.valid = true) ∧
  ∀ v : Value, v.valid = true →
    (renderLiteral v).length = 2 + v.width.toNat ∧ parseLiteral (renderLiteral v) = some v

/-- R84: the pseudo-instruction LIT of a literal expands to NEW of its two numbers, which never faults. -/
def Obligations.LitNeverFaults : Prop :=
  ∀ (cs : List Char) (v : Value) (run : Run) (s : State), parseLiteral cs = some v →
    ∃ f, parseValueForm (['L', 'I', 'T'], [cs]) = some f ∧
      resolveValueForm run f = .ok (.new v.mag (v.width.setWidth 8)) ∧
      exec (.new v.mag (v.width.setWidth 8)) s = .next { s with response := .value v }

/-! ### The machine (spec/10, spec/20, spec/70) -/

/-- R69, R236: where no run is running and the request decodes to an instruction, a step is that instruction. That
the block answers while no run is running, and what withFetchWord sets, are the model's choices (log entries 6 and 7). -/
def Obligations.StepRunsTheDecodedRequest : Prop :=
  (∀ (s : State) (i : Instr), s.Idle → decode s.request = .ok i → step s = exec i s) ∧
  ∀ (s : State) (nbits w : Nat) (i : Instr), decodeTableWord nbits w = some i →
    step (s.withFetchWord nbits w) = exec i (s.withFetchWord nbits w)

/-- R44, R206: every instruction answers in every state, with a response that the state has no part in, and changes
nothing else: not the request inputs, and nothing of the harness. -/
def Obligations.ExecDrivesOnlyTheResponse : Prop :=
  ∀ i : Instr, ∃ r : Response, ∀ s : State,
    exec i s = .next { request := s.request, response := r, run := s.run }

/-- R236, R207: the response is a function of the request's 48 bits: no earlier request, fault or response changes it. -/
def Obligations.ResponseDependsOnTheRequestAlone : Prop :=
  ∀ w : ReqWord, ∃ r : Response, ∀ s : State, s.Idle → s.request = w → step s = .next { s with response := r }

/-- R44: a request has no side effect, and presenting it twice gives the same response both times. -/
def Obligations.PresentingTwiceAnswersAlike : Prop :=
  ∀ s : State, s.Idle → ∃ r : Response, step s = .next { s with response := r } ∧
    step { s with response := r } = .next { s with response := r }

/-- R36, R230: power-up. The response is the function of the present request, and no harness run is in progress. That
the inputs then carry 0 and that no run has been started are the model's choices (log entries 2 and 6). -/
def Obligations.PowerUpIsSettled : Prop :=
  State.reset.Settled ∧ State.reset.Good ∧ State.reset.Idle

/-- R36, R232: the response stays the function of the present request, over every step. -/
def Obligations.EveryStepKeepsSettled : Prop :=
  ∀ s t : State, s.Settled → step s = .next t → t.Settled

/-! ### The host harness (spec/49) -/

/-- R190, R191, R195, R234: a run of a well-formed program from valid start values starts at line 0, running, with the
slots given; an ill-formed program starts none. How a run is begun, and that its status is then running, are the model's
choices (log entry 6). -/
def Obligations.RunStartsAtLineZero : Prop :=
  ∀ (s : State) (p : List Line) (v : Vector (Option Value) 16) (x : Vector (Option Raw) 16),
    (programWellFormed p = true → (∀ (n : Fin 16) (u : Value), v[n] = some u → u.valid = true) →
      ∃ t, startRun s p v x = some t ∧ t.Good ∧
        t = { s with run := some { program := p, v := v, x := x, pc := 0, status := .running } }) ∧
    (programWellFormed p = false → startRun s p v x = none)

/-- R190, R25: a start state that lists an invalid pair for a value slot starts no run. That it is refused, and not run, is
the model's reading (log entry 15). -/
def Obligations.InvalidStartValuesStartNoRun : Prop :=
  ∀ (s : State) (p : List Line) (v : Vector (Option Value) 16) (x : Vector (Option Raw) 16) (n : Fin 16) (u : Value),
    v[n] = some u → u.valid = false → startRun s p v x = none

/-- R191: a running run past its last line is done. That this takes a step of its own, and that the line counter stays,
are the model's (log entry 8). -/
def Obligations.RunPastTheLastLineIsDone : Prop :=
  ∀ (s : State) (run : Run), s.run = some run → run.status = .running → run.pc = run.program.length →
    step s = .next { s with run := some { run with status := .done } }

/-- R192, R194, R196, R198: a line with an operand that faults stops the run with one of its operands' host faults; the
request is not issued and no slot changes. Which of two kinds is reported is free (log entry 9), and that the line counter
stays, and that an immediate above 255 in an 8-bit field is among these operands, are the model's choices (log entries 8
and 16). -/
def Obligations.HostFaultsStopTheRun : Prop :=
  ∀ (s : State) (run : Run) (l : Line), s.AtLine run l → lineFaults run l ≠ [] →
    ∃ k ∈ lineFaults run l, step s = .next { s with run := some { run with status := .hostFault k run.pc } }

/-- R192: what each operand form stands for, where the slots it names are written. -/
def Obligations.OperandFormsAreRead : Prop :=
  ∀ (run : Run) (n : Fin 16),
    (∀ v, readValue run (.lit v) = .ok v) ∧ (∀ v, run.v[n] = some v → readValue run (.slot n) = .ok v) ∧
    (∀ x, readRaw run (.imm x) = .ok x) ∧ (∀ x, run.x[n] = some x → readRaw run (.slot n) = .ok x) ∧
    (∀ v, run.v[n] = some v → ∃ x : Raw, readRaw run (.mag n) = .ok x ∧ x.toNat = v.mag.toNat) ∧
    (∀ v, run.v[n] = some v → ∃ x : Raw, readRaw run (.wid n) = .ok x ∧ x.toNat = v.width.toNat) ∧
    ∀ (a : RawArg) (x : Raw), readRaw run a = .ok x → x.toNat ≤ 255 →
      ∃ b : Byte, readByte run a = .ok b ∧ b.toNat = x.toNat

/-- R80, R193: the request each block-issue form builds from its operands. -/
def Obligations.FormsBuildTheirRequest : Prop :=
  ∀ (run : Run) (p q : ValueArg) (m w : RawArg) (a b : Value) (r k : Byte),
    readValue run p = .ok a → readValue run q = .ok b → readByte run m = .ok r → readByte run w = .ok k →
    resolveValueForm run (.new m w) = .ok (.new r k) ∧ resolveValueForm run (.trunc m w) = .ok (.trunc r k) ∧
    resolveValueForm run (.ones w) = .ok (.ones k) ∧ resolveRawForm run (.cmp p q) = .ok (.cmp a b) ∧
    resolveValueForm run (.not p) = .ok (.not a) ∧ resolveValueForm run (.andv p q) = .ok (.andv a b) ∧
    resolveValueForm run (.andr p m) = .ok (.andr a r) ∧ resolveValueForm run (.or p q) = .ok (.or a b) ∧
    resolveValueForm run (.sub p q) = .ok (.sub a b) ∧ resolveValueForm run (.sext p w) = .ok (.sext a k) ∧
    resolveValueForm run (.zext p w) = .ok (.zext a k) ∧ resolveValueForm run (.concat p q) = .ok (.concat a b) ∧
    resolveRawForm run (.width p) = .ok (.width a) ∧ resolveRawForm run (.hsb p) = .ok (.hsb a) ∧
    resolveValueForm run (.rotr p m) = .ok (.rotr a r) ∧ resolveRawForm run (.repl p m) = .ok (.repl a r)

/-- R193: a value-result line presents its request to CORE; a fault status ends the run, a value goes to the slot. That the
request and response stay on the interfaces, and the line counter of an ended run, are the model's choices (log entries 7
and 8). -/
def Obligations.ValueLinesIssueOneRequest : Prop :=
  ∀ (s : State) (run : Run) (d : Fin 16) (f : ValueForm), s.AtLine run (.issueV d f) →
    lineFaults run (.issueV d f) = [] →
    ∃ i, resolveValueForm run f = .ok i ∧
      ((∃ c, exec i { s with request := encode i } = .next { s with request := encode i, response := .fault c } ∧
        step s = .next
          { request := encode i, response := .fault c, run := some { run with status := .fault c run.pc } }) ∨
      ∃ v : Value, v.valid = true ∧
        exec i { s with request := encode i } = .next { s with request := encode i, response := .value v } ∧
        step s = .next
          { request := encode i, response := .value v, run := some { run with v := run.v.set d (some v), pc := run.pc + 1 } })

/-- R193: a raw-result line presents its request to CORE; a fault status ends the run, a raw result goes to the slot. That
the request and response stay on the interfaces, and the line counter of an ended run, are the model's choices (log
entries 7 and 8). -/
def Obligations.RawLinesIssueOneRequest : Prop :=
  ∀ (s : State) (run : Run) (d : Fin 16) (f : RawForm), s.AtLine run (.issueX d f) →
    lineFaults run (.issueX d f) = [] →
    ∃ i, resolveRawForm run f = .ok i ∧
      ((∃ c, exec i { s with request := encode i } = .next { s with request := encode i, response := .fault c } ∧
        step s = .next
          { request := encode i, response := .fault c, run := some { run with status := .fault c run.pc } }) ∨
      ∃ x : Raw,
        exec i { s with request := encode i } = .next { s with request := encode i, response := .raw x } ∧
        step s = .next
          { request := encode i, response := .raw x, run := some { run with x := run.x.set d (some x), pc := run.pc + 1 } })

/-- R194: the host computations, modulo 2^64. That the line counter of an ended run stays is the model's choice (log
entry 8). -/
def Obligations.HostArithmetic : Prop :=
  ∀ (s : State) (run : Run) (d : Fin 16) (a b : RawArg) (x y : Raw), readRaw run a = .ok x → readRaw run b = .ok y →
    (s.AtLine run (.arith d (.mov a)) →
      step s = .next { s with run := some { run with x := run.x.set d (some x), pc := run.pc + 1 } }) ∧
    (s.AtLine run (.arith d (.add a b)) →
      step s = .next { s with run := some { run with x := run.x.set d (some (x + y)), pc := run.pc + 1 } }) ∧
    (s.AtLine run (.arith d (.sub a b)) →
      step s = .next { s with run := some { run with x := run.x.set d (some (x - y)), pc := run.pc + 1 } }) ∧
    (s.AtLine run (.arith d (.shl a b)) → y.toNat < 64 →
      step s = .next { s with run := some { run with x := run.x.set d (some (x <<< y)), pc := run.pc + 1 } }) ∧
    (s.AtLine run (.arith d (.shl a b)) → 64 ≤ y.toNat →
      step s = .next { s with run := some { run with status := .hostFault .shift run.pc } }) ∧
    (s.AtLine run (.arith d (.div a b)) → y ≠ 0 →
      step s = .next { s with run := some { run with x := run.x.set d (some (x / y)), pc := run.pc + 1 } }) ∧
    (s.AtLine run (.arith d (.div a b)) → y = 0 →
      step s = .next { s with run := some { run with status := .hostFault .divZero run.pc } })

/-- R195: the control lines. That the line counter of an ended run stays is the model's choice (log entry 8). -/
def Obligations.ControlLines : Prop :=
  (∀ (s : State) (run : Run) (a b : RawArg) (x y : Raw) (n : Nat), readRaw run a = .ok x → readRaw run b = .ok y →
    (s.AtLine run (.beq a b n) →
      step s = .next { s with run := some { run with pc := if x = y then n else run.pc + 1 } }) ∧
    (s.AtLine run (.bne a b n) →
      step s = .next { s with run := some { run with pc := if x = y then run.pc + 1 else n } }) ∧
    (s.AtLine run (.haltIfEq a b) → x = y →
      step s = .next { s with run := some { run with status := .halted run.pc } }) ∧
    (s.AtLine run (.haltIfEq a b) → x ≠ y →
      step s = .next { s with run := some { run with pc := run.pc + 1 } })) ∧
  (∀ (s : State) (run : Run) (n : Nat), s.AtLine run (.jmp n) →
    step s = .next { s with run := some { run with pc := n } }) ∧
  ∀ (s : State) (run : Run), s.AtLine run .halt → step s = .next { s with run := some { run with status := .done } }

/-- R197, R198: once a run has ended, no number of steps changes anything of it. That the machine
answers requests meanwhile is the model's choice (log entry 7). -/
def Obligations.EndedRunsAreFinal : Prop :=
  ∀ (n : Nat) (s : State) (run : Run), s.run = some run → run.status ≠ .running →
    ∃ t, core.run n s = .next t ∧ t.run = some run

/-- R190, R195, R25: a run of an assembled program keeps valid values in its slots and its line counter in the
program, over every step. -/
def Obligations.EveryStepKeepsRunsGood : Prop :=
  ∀ s t : State, s.Good → step s = .next t → t.Good

/-- R69, R195: a step from a state whose run is good never stops the machine. The fault ruled out is the model's
own (log entry 10). -/
def Obligations.GoodStatesNeverStop : Prop :=
  ∀ s : State, s.Good → ∃ t, step s = .next t

/-- R233: the values of a good run come from CORE's results or from literals, so no line of it is answered
BAD_OPERAND_A, BAD_OPERAND_B or ILLEGAL_OP. -/
def Obligations.GoodRunsNeverPresentBadOperands : Prop :=
  ∀ (s t : State) (run run' : Run) (c : FaultCode) (n : Nat), s.Good → s.run = some run → run.status = .running →
    step s = .next t → t.run = some run' → run'.status = .fault c n →
    c ≠ .illegalOp ∧ c ≠ .badOperandA ∧ c ≠ .badOperandB
end

