-- ==== Sys2Proof/Laws/State.lean ====
section
/-! SUPPORT. The small lemmas of the state: one per field per update. -/

namespace Sys2Proof.Machine

variable (s : State) (r : Response) (w : ReqWord) (o : Option Run) (run : Run)

@[simp] theorem State.respond_request : (s.respond r).request = s.request := rfl
@[simp] theorem State.respond_response : (s.respond r).response = r := rfl
@[simp] theorem State.respond_run : (s.respond r).run = s.run := rfl
@[simp] theorem State.present_request : (s.present w).request = w := rfl
@[simp] theorem State.present_response : (s.present w).response = s.response := rfl
@[simp] theorem State.present_run : (s.present w).run = s.run := rfl
@[simp] theorem State.setRun_request : (s.setRun o).request = s.request := rfl
@[simp] theorem State.setRun_response : (s.setRun o).response = s.response := rfl
@[simp] theorem State.setRun_run : (s.setRun o).run = o := rfl

@[simp] theorem State.respond_respond (r' : Response) : (s.respond r).respond r' = s.respond r' := rfl

@[simp] theorem Run.goto_program (t : Nat) : (run.goto t).program = run.program := rfl
@[simp] theorem Run.goto_v (t : Nat) : (run.goto t).v = run.v := rfl
@[simp] theorem Run.goto_x (t : Nat) : (run.goto t).x = run.x := rfl
@[simp] theorem Run.goto_pc (t : Nat) : (run.goto t).pc = t := rfl
@[simp] theorem Run.goto_status (t : Nat) : (run.goto t).status = run.status := rfl
@[simp] theorem Run.stop_program (st : Status) : (run.stop st).program = run.program := rfl
@[simp] theorem Run.stop_v (st : Status) : (run.stop st).v = run.v := rfl
@[simp] theorem Run.stop_x (st : Status) : (run.stop st).x = run.x := rfl
@[simp] theorem Run.stop_pc (st : Status) : (run.stop st).pc = run.pc := rfl
@[simp] theorem Run.stop_status (st : Status) : (run.stop st).status = st := rfl
@[simp] theorem Run.writeV_program (d : Fin 16) (v : Value) : (run.writeV d v).program = run.program := rfl
@[simp] theorem Run.writeV_v (d : Fin 16) (v : Value) : (run.writeV d v).v = run.v.set d (some v) := rfl
@[simp] theorem Run.writeV_x (d : Fin 16) (v : Value) : (run.writeV d v).x = run.x := rfl
@[simp] theorem Run.writeV_pc (d : Fin 16) (v : Value) : (run.writeV d v).pc = run.pc + 1 := rfl
@[simp] theorem Run.writeV_status (d : Fin 16) (v : Value) : (run.writeV d v).status = run.status := rfl
@[simp] theorem Run.writeX_program (d : Fin 16) (x : Raw) : (run.writeX d x).program = run.program := rfl
@[simp] theorem Run.writeX_v (d : Fin 16) (x : Raw) : (run.writeX d x).v = run.v := rfl
@[simp] theorem Run.writeX_x (d : Fin 16) (x : Raw) : (run.writeX d x).x = run.x.set d (some x) := rfl
@[simp] theorem Run.writeX_pc (d : Fin 16) (x : Raw) : (run.writeX d x).pc = run.pc + 1 := rfl
@[simp] theorem Run.writeX_status (d : Fin 16) (x : Raw) : (run.writeX d x).status = run.status := rfl

end Sys2Proof.Machine
end

