-- ==== Sys2Proof/Laws/Ops.lean ====
section
/-! SUPPORT. What the shared operations of the meanings can do. Each lemma is cited in place of the definition. -/

namespace Sys2Proof

/-- A magnitude fits its 8 bits. -/
theorem Value.m_lt (v : Value) : v.m < 256 := v.mag.isLt

/-- A width code fits its 4 bits. -/
theorem Value.w_lt (v : Value) : v.w < 16 := v.width.isLt

/-- The three parts of validity (R22, R23). -/
theorem Value.valid_iff (v : Value) : v.valid = true ↔ 1 ≤ v.w ∧ v.w ≤ 8 ∧ v.m < 2 ^ v.w := by
  simp [Value.valid, and_assoc]

/-- A value is its two numbers. -/
theorem Value.eta_ofNat (v : Value) : (⟨BitVec.ofNat 8 v.m, BitVec.ofNat 4 v.w⟩ : Value) = v := by
  simp [Value.m, Value.w]

namespace Machine

variable {a b : Value} {k : Byte} {s : State} {rest : Result}

theorem widthInRange_iff (n : Nat) : widthInRange n = true ↔ 1 ≤ n ∧ n ≤ 8 := by
  simp [widthInRange]

theorem checkA_of_valid (h : a.valid = true) : checkA a s rest = rest := by simp [checkA, h]

theorem checkA_of_invalid (h : a.valid = false) : checkA a s rest = raise .badOperandA s := by simp [checkA, h]

theorem checkB_of_valid (h : b.valid = true) : checkB b s rest = rest := by simp [checkB, h]

theorem checkB_of_invalid (h : b.valid = false) : checkB b s rest = raise .badOperandB s := by simp [checkB, h]

theorem checkWidth_of_inRange (h1 : 1 ≤ k.toNat) (h8 : k.toNat ≤ 8) : checkWidth k s rest = rest := by
  simp [checkWidth, (widthInRange_iff _).2 ⟨h1, h8⟩]

theorem checkWidth_of_outside (h : k.toNat < 1 ∨ 8 < k.toNat) : checkWidth k s rest = raise .badWidth s := by
  have : ¬ widthInRange k.toNat = true := by rw [widthInRange_iff]; omega
  simp [checkWidth, this]

theorem checkNot_of_good {bad : Bool} {c : FaultCode} (h : bad = false) : checkNot bad c s rest = rest := by
  simp [checkNot, h]

theorem checkNot_of_bad {bad : Bool} {c : FaultCode} (h : bad = true) : checkNot bad c s rest = raise c s := by
  simp [checkNot, h]

/-- An operation answers by driving the response and nothing else, with the same response in every state. -/
def Answers (f : State → Result) : Prop := ∃ r, ∀ s, f s = .next (s.respond r)

theorem answers_raise (c : FaultCode) : Answers (raise c) := ⟨_, fun _ => rfl⟩

theorem answers_resultValue (m w : Nat) : Answers (resultValue m w) := ⟨_, fun _ => rfl⟩

theorem answers_resultRaw (x : Nat) : Answers (resultRaw x) := ⟨_, fun _ => rfl⟩

theorem answers_ite {c : Prop} [Decidable c] {f g : State → Result} (hf : Answers f) (hg : Answers g) :
    Answers fun s => if c then f s else g s := by
  by_cases h : c
  · simpa [h] using hf
  · simpa [h] using hg

variable {f : State → Result}

theorem answers_checkA (a : Value) (h : Answers f) : Answers fun s => checkA a s (f s) :=
  answers_ite h (answers_raise _)

theorem answers_checkB (b : Value) (h : Answers f) : Answers fun s => checkB b s (f s) :=
  answers_ite h (answers_raise _)

theorem answers_checkWidth (k : Byte) (h : Answers f) : Answers fun s => checkWidth k s (f s) :=
  answers_ite h (answers_raise _)

theorem answers_checkNot (bad : Bool) (c : FaultCode) (h : Answers f) : Answers fun s => checkNot bad c s (f s) :=
  answers_ite (answers_raise c) h

end Machine
end Sys2Proof
end

