-- ==== Sys2Proof/Laws/Harness.lean ====
section
/-! SUPPORT. What the harness's shared operations can do: reading operands, and the two shapes of a line. -/

namespace Sys2Proof.Machine

theorem readSlot_eq_ok_iff {α : Type} (o : Option α) (a : α) : readSlot o = .ok a ↔ o = some a := by
  cases o <;> simp [readSlot]

theorem readSlot_eq_error_iff {α : Type} (o : Option α) (e : HostFault) :
    readSlot o = .error e ↔ o = none ∧ e = .unwritten := by
  cases o <;> simp [readSlot, eq_comm]

/-- Two operands read exactly when each is read. -/
theorem both_eq_ok_iff {α β : Type} (line : Nat) (a : Read α) (b : Read β) (p : α × β) :
    both line a b = .ok p ↔ a = .ok p.1 ∧ b = .ok p.2 := by
  rcases p with ⟨x, y⟩
  cases a <;> cases b <;> simp [both]
  all_goals split_ifs <;> simp

/-- A fault of two operands is a fault of one of them. -/
theorem both_eq_error {α β : Type} {line : Nat} {a : Read α} {b : Read β} {e : HostFault}
    (h : both line a b = .error e) : a = .error e ∨ b = .error e := by
  cases a <;> cases b <;> simp [both] at h ⊢
  · split_ifs at h <;> simp_all
  · exact h
  · exact h

/-- A line that touches only the run leaves CORE's interfaces as they are. -/
theorem hostLine_next {run : Run} {r : Read Run} {s t : State} (h : hostLine run r s = .next t) :
    t.request = s.request ∧ t.response = s.response ∧
      ((∃ run', r = .ok run' ∧ t.run = some run') ∨
        ∃ e, r = .error e ∧ t.run = some (run.stop (.hostFault e run.pc))) := by
  cases r with
  | ok run' => simp only [hostLine, Host.Outcome.next.injEq] at h; subst h; simp
  | error e => simp only [hostLine, Host.Outcome.next.injEq] at h; subst h; simp

/-- A block-issue line stops on a host fault with no request, or goes through one answer of CORE. -/
theorem issue_next {run : Run} {i : Read Instr} {write : Response → Run} {s t : State}
    (h : issue run i write s = .next t) :
    (∃ e, i = .error e ∧ t = s.setRun (some (run.stop (.hostFault e run.pc)))) ∨
      ∃ j u, i = .ok j ∧ serve (s.present (encode j)) = .next u ∧
        t = u.setRun (some (finishIssue run u.response write)) := by
  cases i with
  | error e => simp only [issue, Host.Outcome.next.injEq] at h; exact .inl ⟨e, rfl, h.symm⟩
  | ok j =>
    refine .inr ?_
    simp only [issue] at h
    split at h
    · rename_i u hu
      simp only [Host.Outcome.next.injEq] at h
      exact ⟨j, u, rfl, hu, h.symm⟩
    · cases h
    · cases h

end Sys2Proof.Machine
end

