-- ==== Sys2Proof/Laws/Numeric.lean ====
section
/-! SUPPORT. What the arithmetic primitives of spec/00_scope.md R9 compute. -/

namespace Sys2Proof.Machine

/-- Masking with ones(w) keeps the low w bits. -/
theorem and_onesOf (x w : Nat) : x &&& onesOf w = x % 2 ^ w := by
  simp [onesOf, Nat.and_two_pow_sub_one_eq_mod]

theorem testBit_onesOf (w i : Nat) : (onesOf w).testBit i = decide (i < w) := by simp [onesOf]

/-- Truncation to a width gives a magnitude that fits it (R25). -/
theorem and_onesOf_lt (x w : Nat) : x &&& onesOf w < 2 ^ w := by
  rw [and_onesOf]; exact Nat.mod_lt _ (Nat.two_pow_pos w)

/-- Invariant R23 in its two forms: no set bit at a position of `w` or more, and a number below 2^w. -/
theorem no_bit_from_iff (m : Byte) (w : Nat) : (∀ i, w ≤ i → m.getLsbD i = false) ↔ m.toNat < 2 ^ w := by
  constructor
  · exact fun h => Nat.lt_pow_two_of_testBit _ fun i hi => h i hi
  · exact fun h i hi => Nat.testBit_lt_two_pow (h.trans_le (Nat.pow_le_pow_right (by decide) hi))

/-- The search finds the highest set bit. -/
theorem highestBelow_spec {n m : Nat} (h : m < 2 ^ n) (h0 : m ≠ 0) :
    highestBelow n m < n ∧ m.testBit (highestBelow n m) = true ∧
      ∀ j, highestBelow n m < j → m.testBit j = false := by
  induction n with
  | zero => omega
  | succ n ih =>
    by_cases hb : m.testBit n = true
    · simp only [highestBelow, hb, if_true]
      exact ⟨n.lt_succ_self, trivial, fun j hj => Nat.testBit_lt_two_pow (h.trans_le (Nat.pow_le_pow_right (by decide) hj))⟩
    · have hlt : m < 2 ^ n := by
        apply Nat.lt_pow_two_of_testBit
        intro i hi
        rcases Nat.eq_or_lt_of_le hi with rfl | hi
        · simpa using hb
        · exact Nat.testBit_lt_two_pow (h.trans_le (Nat.pow_le_pow_right (by decide) hi))
      obtain ⟨h1, h2, h3⟩ := ih hlt
      simp only [highestBelow, hb]
      exact ⟨Nat.lt_succ_of_lt h1, h2, h3⟩

end Sys2Proof.Machine
end

