-- ==== Sys2Proof/Tests/Slice0.lean ====
section
/-! SUPPORT. The model's own tests. Expected results are the spec's: words of spec/30_encoding.md R85 and results of
spec/95_test_vectors.md. The last part has a witness for the hypotheses of every obligation that has any. -/

namespace Sys2Proof.Tests

open Sys2Proof Sys2Proof.Machine

/-- The response a step drives when the word is the next request after power-up. -/
def answer (w : ReqWord) : Option Response :=
  match step (State.reset.withFetchWord 48 w.toNat) with
  | .next t => some t.response
  | .fault _ => none
  | .refused _ => none

/-! ### Decoding: R85's words, one for each instruction, and the assembler's word for it (R80) -/

theorem test_decode_new : decode 0x040500000000 = .ok (.new 5 4) ∧ encode (.new 5 4) = 0x040500000000 := by decide
theorem test_decode_trunc : decode 0x03FF00000001 = .ok (.trunc 255 3) ∧ encode (.trunc 255 3) = 0x03FF00000001 := by decide
theorem test_decode_ones : decode 0x080000000002 = .ok (.ones 8) ∧ encode (.ones 8) = 0x080000000002 := by decide
theorem test_decode_cmp : decode 0x000005430503 = .ok (.cmp ⟨5, 3⟩ ⟨5, 4⟩) ∧ encode (.cmp ⟨5, 3⟩ ⟨5, 4⟩) = 0x000005430503 := by decide
theorem test_decode_not : decode 0x000000063004 = .ok (.not ⟨48, 6⟩) ∧ encode (.not ⟨48, 6⟩) = 0x000000063004 := by decide
theorem test_decode_andv : decode 0x000007363005 = .ok (.andv ⟨48, 6⟩ ⟨7, 3⟩) ∧ encode (.andv ⟨48, 6⟩ ⟨7, 3⟩) = 0x000007363005 := by decide
theorem test_decode_andr : decode 0x000600040B06 = .ok (.andr ⟨11, 4⟩ 6) ∧ encode (.andr ⟨11, 4⟩ 6) = 0x000600040B06 := by decide
theorem test_decode_or : decode 0x000008420107 = .ok (.or ⟨1, 2⟩ ⟨8, 4⟩) ∧ encode (.or ⟨1, 2⟩ ⟨8, 4⟩) = 0x000008420107 := by decide
theorem test_decode_sub : decode 0x000001660008 = .ok (.sub ⟨0, 6⟩ ⟨1, 6⟩) ∧ encode (.sub ⟨0, 6⟩ ⟨1, 6⟩) = 0x000001660008 := by decide
theorem test_decode_sext : decode 0x080000030509 = .ok (.sext ⟨5, 3⟩ 8) ∧ encode (.sext ⟨5, 3⟩ 8) = 0x080000030509 := by decide
theorem test_decode_zext : decode 0x08000003050A = .ok (.zext ⟨5, 3⟩ 8) ∧ encode (.zext ⟨5, 3⟩ 8) = 0x08000003050A := by decide
theorem test_decode_concat : decode 0x00000F61000B = .ok (.concat ⟨0, 1⟩ ⟨15, 6⟩) ∧ encode (.concat ⟨0, 1⟩ ⟨15, 6⟩) = 0x00000F61000B := by decide
theorem test_decode_width : decode 0x00000003050C = .ok (.width ⟨5, 3⟩) ∧ encode (.width ⟨5, 3⟩) = 0x00000003050C := by decide
theorem test_decode_hsb : decode 0x000000070F0D = .ok (.hsb ⟨15, 7⟩) ∧ encode (.hsb ⟨15, 7⟩) = 0x000000070F0D := by decide
theorem test_decode_rotr : decode 0x00010003050E = .ok (.rotr ⟨5, 3⟩ 1) ∧ encode (.rotr ⟨5, 3⟩ 1) = 0x00010003050E := by decide
theorem test_decode_repl : decode 0x000300040A0F = .ok (.repl ⟨10, 4⟩ 3) ∧ encode (.repl ⟨10, 4⟩ 3) = 0x000300040A0F := by decide

theorem test_decode_reserved_first : decode 0x000000000910 = .error (.illegalOp 0x10) := by decide
theorem test_decode_reserved_last : decode 0x0000000000FF = .error (.illegalOp 0xFF) := by decide
theorem test_decode_ignores_unread : decode 0xCDABFFF63004 = .ok (.not ⟨48, 6⟩) := by decide
theorem test_decode_bytes : decodeBytes [0x03, 0x05, 0x43, 0x05, 0x00, 0x00, 0xAA] =
    .ok (.cmp ⟨5, 3⟩ ⟨5, 4⟩, [0xAA]) := by decide
theorem test_decode_bytes_short : decodeBytes [0x03, 0x05, 0x43, 0x05, 0x00] = .error .tooShort := by decide
theorem test_table_word : decodeTableWord 32 0x05430503 = some (.cmp ⟨5, 3⟩ ⟨5, 4⟩) := by decide

/-! ### One request, one response (95_test_vectors.md section 2) -/

theorem test_new_magnitude_too_wide : answer 0x078000000000 = some (.fault .magTooWide) := by decide
theorem test_new_width_checked_first : answer 0x09FF00000000 = some (.fault .badWidth) := by decide
theorem test_trunc_erases : answer 0x04B600000001 = some (.value ⟨6, 4⟩) := by decide
theorem test_trunc_width_0 : answer 0x000100000001 = some (.fault .badWidth) := by decide
theorem test_ones_8 : answer 0x080000000002 = some (.value ⟨255, 8⟩) := by decide
theorem test_ones_9 : answer 0x090000000002 = some (.fault .badWidth) := by decide
theorem test_cmp_width_decides : answer 0x000005430503 = some (.raw 1) := by decide
theorem test_cmp_magnitude_decides : answer 0x000005830603 = some (.raw 4) := by decide
theorem test_not_within_width : answer 0xCDABFFF63004 = some (.value ⟨15, 6⟩) := by decide
theorem test_not_bad_operand : answer 0x000000020404 = some (.fault .badOperandA) := by decide
theorem test_andv_min_width : answer 0x0000FF840F05 = some (.value ⟨15, 4⟩) := by decide
theorem test_andv_bad_operand_b : answer 0x000002110105 = some (.fault .badOperandB) := by decide
theorem test_andr_own_width : answer 0x00F000040B06 = some (.value ⟨0, 4⟩) := by decide
theorem test_andr_bad_operand : answer 0x00FF00041006 = some (.fault .badOperandA) := by decide
theorem test_or_max_width : answer 0x000000810107 = some (.value ⟨1, 8⟩) := by decide
theorem test_or_stray_bit : answer 0x000080480107 = some (.fault .badOperandB) := by decide
theorem test_sub_wraps : answer 0x000005440308 = some (.value ⟨14, 4⟩) := by decide
theorem test_sub_operand_before_mismatch : answer 0x000010430108 = some (.fault .badOperandB) := by decide
theorem test_sext_sign : answer 0x060000040809 = some (.value ⟨56, 6⟩) := by decide
theorem test_sext_bad_width_first : answer 0x000000030509 = some (.fault .badWidth) := by decide
theorem test_zext_same_width : answer 0x03000003050A = some (.value ⟨5, 3⟩) := by decide
theorem test_zext_narrowing : answer 0x02000003050A = some (.fault .narrowingExtend) := by decide
theorem test_concat_total_8 : answer 0x000000440F0B = some (.value ⟨240, 8⟩) := by decide
theorem test_concat_total_9 : answer 0x00002E63050B = some (.fault .concatTooWide) := by decide
theorem test_width_of_zero : answer 0x00000008000C = some (.raw 8) := by decide
theorem test_width_bad_operand : answer 0x0000000C000C = some (.fault .badOperandA) := by decide
theorem test_hsb_7 : answer 0x00000008A30D = some (.raw 7) := by decide
theorem test_hsb_zero : answer 0x00000005000D = some (.fault .hsbZero) := by decide
theorem test_rotr_amount_255 : answer 0x00FF0008960E = some (.value ⟨45, 8⟩) := by decide
theorem test_rotr_amount_7_of_3 : answer 0x00070003050E = some (.value ⟨6, 3⟩) := by decide
theorem test_repl_21_tiles : answer 0x00150003050F = some (.raw 0x5B6DB6DB6DB6DB6D) := by decide
theorem test_repl_66_bits : answer 0x00160003050F = some (.fault .replTooWide) := by decide
theorem test_illegal_before_operand : answer 0x000000000910 = some (.fault .illegalOp) := by decide
theorem test_power_up_answers_itself : answer 0x000000000000 = some (.fault .badWidth) := by decide

/-- R70: ROTR's value result as a response word, RM = 6, RW = 3, ST = 0. -/
theorem test_response_word : (answer 0x00010003050E).map Response.word = some 0x630 := by decide

/-! ### Well-formedness refuses each ill-formed term -/

theorem test_value_width_0 : (⟨0, 0⟩ : Value).valid = false := by decide
theorem test_value_width_9 : (⟨0, 9⟩ : Value).valid = false := by decide
theorem test_value_stray_bit : (⟨8, 3⟩ : Value).valid = false := by decide
theorem test_instr_ill_formed_a : (Instr.not ⟨4, 2⟩).wellFormed = false := by decide
theorem test_instr_ill_formed_b : (Instr.concat ⟨1, 1⟩ ⟨2, 1⟩).wellFormed = false := by decide
theorem test_instr_well_formed : (Instr.concat ⟨1, 1⟩ ⟨1, 1⟩).wellFormed = true := by decide
theorem test_value_line_ill_formed : (Line.issueV 0 (.not (.lit ⟨4, 2⟩))).wellFormed 1 = false := by decide
theorem test_raw_line_ill_formed : (Line.issueX 0 (.cmp (.slot 0) (.lit ⟨4, 2⟩))).wellFormed 1 = false := by decide
theorem test_target_past_the_end : programWellFormed [.jmp 2] = false := by decide
theorem test_target_at_the_end : programWellFormed [.jmp 1] = true := by decide

/-! ### The assembler's text (R80 to R84, R192 to R195) -/

theorem test_literal : parseLiteral ['0', 'b', '0', '1', '_', '0', '1'] = some ⟨5, 4⟩ := by decide
theorem test_literal_empty : parseLiteral ['0', 'b'] = none := by decide
theorem test_literal_9_digits : parseLiteral ['0', 'b', '0', '0', '0', '0', '0', '0', '0', '0', '1'] = none := by decide
theorem test_raw_256 : assemble ['O', 'N', 'E', 'S', ' ', '#', '2', '5', '6'] = none := by decide
theorem test_assemble_rotr : assemble ['R', 'O', 'T', 'R', ' ', '0', 'b', '1', '0', '1', ',', ' ', '#', '0', 'x', '1'] =
    some (.rotr ⟨5, 3⟩ 1) := by decide
theorem test_assemble_lit : assemble ['L', 'I', 'T', ' ', '0', 'b', '0', '1', '0', '1'] = some (.new 5 4) := by decide
theorem test_line_pairing : parseLine ['v', '1', ' ', '=', ' ', 'H', 'S', 'B', ' ', 'v', '0'] = none := by decide
theorem test_line_mag : parseLine ['x', '2', ' ', '=', ' ', 'a', 'd', 'd', ' ', 'm', 'a', 'g', '(', 'v', '2', ')', ',',
    ' ', '#', '2', '5', '0'] = some (.arith 2 (.add (.mag 2) (.imm 250))) := by decide

/-! ### The harness: one step at one line -/

/-- A run about to execute the line, the only one of its program: v0 = 0b101, v1 = 0b101110, x0 = 3, every other slot
unwritten. -/
def runAt (l : Line) : Run where
  program := [l]
  v := (unwrittenSlots.set 0 (some ⟨5, 3⟩)).set 1 (some ⟨46, 6⟩)
  x := unwrittenSlots.set 0 (some 3)
  pc := 0
  status := .running

/-- The machine with that run. -/
def stateAt (l : Line) : State := { State.reset with run := some (runAt l) }

/-- What one step makes of the run. -/
def runAfter (l : Line) : Option Run :=
  match step (stateAt l) with
  | .next t => t.run
  | .fault _ => none
  | .refused _ => none

/-- The status after one step. -/
def statusAfter (l : Line) : Option Status := (runAfter l).map Run.status

theorem test_line_writes_slot :
    (runAfter (.issueV 2 (.rotr (.slot 0) (.imm 1)))).map (fun r => (r.v[2], r.pc)) = some (some ⟨6, 3⟩, 1) := by decide
theorem test_line_writes_raw_slot : (runAfter (.issueX 0 (.width (.slot 1)))).map (fun r => r.x[0]) = some (some 6) := by decide
theorem test_line_fault :
    statusAfter (.issueV 5 (.concat (.slot 0) (.slot 1))) = some (.fault .concatTooWide 0) := by decide
theorem test_line_fault_keeps_slot :
    (runAfter (.issueV 5 (.concat (.slot 0) (.slot 1)))).map (fun r => (r.v[5], r.pc)) = some (none, 0) := by decide
theorem test_unwritten : statusAfter (.issueX 1 (.hsb (.slot 9))) = some (.hostFault .unwritten 0) := by decide
theorem test_range : statusAfter (.issueV 3 (.andr (.slot 0) (.imm 258))) = some (.hostFault .range 0) := by decide
theorem test_shift : statusAfter (.arith 1 (.shl (.imm 1) (.imm 64))) = some (.hostFault .shift 0) := by decide
theorem test_div_zero : statusAfter (.arith 1 (.div (.imm 64) (.imm 0))) = some (.hostFault .divZero 0) := by decide
theorem test_sub_wraps_64 :
    (runAfter (.arith 1 (.sub (.imm 0) (.imm 1)))).map (fun r => r.x[1]) = some (some 0xFFFFFFFFFFFFFFFF) := by decide
theorem test_halt_if_eq : statusAfter (.haltIfEq (.slot 0) (.wid 0)) = some (.halted 0) := by decide
theorem test_bne_not_taken : (runAfter (.bne (.slot 0) (.imm 3) 0)).map Run.pc = some 1 := by decide
theorem test_beq_taken : (runAfter (.beq (.slot 0) (.imm 3) 0)).map Run.pc = some 0 := by decide

/-! ### Witnesses: a state and operands that meet the hypotheses of each obligation, clause by clause -/

/-- A byte has no bit from 8 up, the widest NEW. -/
theorem witness_new_fits : 1 ≤ (8 : Byte).toNat ∧ (8 : Byte).toNat ≤ 8 ∧
    ∀ i, (8 : Byte).toNat ≤ i → (255 : Byte).getLsbD i = false :=
  ⟨by decide, by decide, fun i h => BitVec.getLsbD_of_ge _ _ h⟩
theorem witness_new_too_wide : 1 ≤ (7 : Byte).toNat ∧ (7 : Byte).toNat ≤ 8 ∧
    ∃ i, (7 : Byte).toNat ≤ i ∧ (128 : Byte).getLsbD i = true := ⟨by decide, by decide, 7, by decide⟩
/-- Width operands at their bounds: NEW, TRUNC, ONES, SEXT, ZEXT. -/
theorem witness_width_operand : (1 ≤ (1 : Byte).toNat ∧ (1 : Byte).toNat ≤ 8) ∧ (1 ≤ (8 : Byte).toNat ∧ (8 : Byte).toNat ≤ 8) ∧
    (0 : Byte).toNat < 1 ∧ 8 < (9 : Byte).toNat := by decide
theorem witness_op_new : (0x040500000000 : ReqWord).extractLsb' 0 8 = 0x00#8 := by decide
theorem witness_op_trunc : (0x03FF00000001 : ReqWord).extractLsb' 0 8 = 0x01#8 := by decide
theorem witness_op_ones : (0x080000000002 : ReqWord).extractLsb' 0 8 = 0x02#8 := by decide
theorem witness_op_cmp : (0x000005430503 : ReqWord).extractLsb' 0 8 = 0x03#8 := by decide
theorem witness_op_not : (0x000000063004 : ReqWord).extractLsb' 0 8 = 0x04#8 := by decide
theorem witness_op_andv : (0x000007363005 : ReqWord).extractLsb' 0 8 = 0x05#8 := by decide
theorem witness_op_andr : (0x000600040B06 : ReqWord).extractLsb' 0 8 = 0x06#8 := by decide
theorem witness_op_or : (0x000008420107 : ReqWord).extractLsb' 0 8 = 0x07#8 := by decide
theorem witness_op_sub : (0x000001660008 : ReqWord).extractLsb' 0 8 = 0x08#8 := by decide
theorem witness_op_sext : (0x080000030509 : ReqWord).extractLsb' 0 8 = 0x09#8 := by decide
theorem witness_op_zext : (0x08000003050A : ReqWord).extractLsb' 0 8 = 0x0A#8 := by decide
theorem witness_op_concat : (0x00000F61000B : ReqWord).extractLsb' 0 8 = 0x0B#8 := by decide
theorem witness_op_width : (0x00000003050C : ReqWord).extractLsb' 0 8 = 0x0C#8 := by decide
theorem witness_op_hsb : (0x000000070F0D : ReqWord).extractLsb' 0 8 = 0x0D#8 := by decide
theorem witness_op_rotr : (0x00010003050E : ReqWord).extractLsb' 0 8 = 0x0E#8 := by decide
theorem witness_op_repl : (0x000300040A0F : ReqWord).extractLsb' 0 8 = 0x0F#8 := by decide
/-- Operands A and B: valid ones at the narrowest and the widest, an invalid A, an invalid B with a valid A. -/
theorem witness_mask_widths : (⟨255, 8⟩ : Value).valid = true ∧ 1 ≤ (1 : Byte).toNat ∧ (8 : Byte).toNat ≤ 8 := by decide
theorem witness_operands : (⟨1, 1⟩ : Value).valid = true ∧ (⟨255, 8⟩ : Value).valid = true ∧
    (⟨2, 1⟩ : Value).valid = false ∧ (⟨0, 0⟩ : Value).valid = false ∧ (⟨0, 9⟩ : Value).valid = false := by decide
/-- CMP: less by the width, equal, greater by the width, on valid operands (also for the total order). -/
theorem witness_cmp : (⟨5, 3⟩ : Value).valid = true ∧ (⟨5, 4⟩ : Value).valid = true ∧
    (((5 : Byte) < 5) ∨ (5 : Byte) = 5 ∧ (3 : WidthCode) < 4) ∧ ((0 : Byte) < 255) := by decide
/-- CMP's transitivity: both premises hold of 0b0, 0b00 and 0b000. -/
theorem witness_cmp_transitive (s : State) :
    exec (.cmp ⟨0, 1⟩ ⟨0, 2⟩) s = .next { s with response := .raw 1 } ∧
    exec (.cmp ⟨0, 2⟩ ⟨0, 3⟩) s = .next { s with response := .raw 1 } := ⟨rfl, rfl⟩
/-- SUB: equal and different widths. -/
theorem witness_sub : (⟨0, 6⟩ : Value).width = (⟨1, 6⟩ : Value).width ∧ (⟨1, 3⟩ : Value).width ≠ (⟨1, 4⟩ : Value).width := by decide
/-- SUB in two's complement, 4 bits: 7 - 7 fits, -8 - 1 is too low, 7 - (-1) is too high. -/
theorem witness_sub_signed : (⟨7, 4⟩ : Value).signed - (⟨7, 4⟩ : Value).signed = 0 ∧
    (⟨8, 4⟩ : Value).signed - (⟨1, 4⟩ : Value).signed < -2 ^ 3 ∧
    2 ^ 3 - 1 < (⟨7, 4⟩ : Value).signed - (⟨15, 4⟩ : Value).signed := by decide
/-- SEXT and ZEXT: the own width, the widest, narrowing by one. TRUNC of a ZEXT has the same hypotheses. -/
theorem witness_extend : (3 : WidthCode).toNat ≤ (3 : Byte).toNat ∧ (1 : WidthCode).toNat ≤ (8 : Byte).toNat ∧
    1 ≤ (2 : Byte).toNat ∧ (2 : Byte).toNat < (3 : WidthCode).toNat := by decide
/-- SEXT's closed form: a clear and a set sign bit. -/
theorem witness_sign : (3 : Byte).getLsbD ((3 : WidthCode).toNat - 1) = false ∧
    (5 : Byte).getLsbD ((3 : WidthCode).toNat - 1) = true := by decide
theorem witness_concat : (4 : WidthCode).toNat + (4 : WidthCode).toNat ≤ 8 ∧ 8 < (8 : WidthCode).toNat + (1 : WidthCode).toNat := by
  decide
theorem witness_hsb : (⟨1, 1⟩ : Value).valid = true ∧ (1 : Byte) ≠ 0 ∧ (⟨0, 5⟩ : Value).valid = true := by decide
theorem witness_repl : (64 : Byte) ≠ 0 ∧ (64 : Byte).toNat * (1 : WidthCode).toNat ≤ 64 ∧
    64 < (65 : Byte).toNat * (1 : WidthCode).toNat ∧ (0 : Byte) = 0 := by decide
theorem witness_value_result (s : State) : exec (.ones 8) s = .next { s with response := .value ⟨255, 8⟩ } := rfl
/-- A second fault behind the first: A and B invalid; K out of range and K below AW. -/
theorem witness_priority : firstFault (.cmp ⟨8, 3⟩ ⟨0, 0⟩) = some .badOperandA ∧
    firstFault (.sext ⟨5, 3⟩ 0) = some .badWidth ∧ firstFault (.sext ⟨5, 3⟩ 8) = none := by decide
theorem witness_operand_read : (Instr.sub ⟨1, 1⟩ ⟨2, 1⟩).operandA = some ⟨1, 1⟩ ∧
    (Instr.sub ⟨1, 1⟩ ⟨2, 1⟩).operandB = some ⟨2, 1⟩ := by decide
theorem witness_reserved : 0x10 ≤ ((0x10 : ReqWord).extractLsb' 0 8).toNat ∧ 0x10 ≤ ((0xFF : ReqWord).extractLsb' 0 8).toNat := by decide
theorem witness_unread : (0xCDABFFF63004 : ReqWord) &&& readMask 0x04 = 0x000000063004 &&& readMask 0x04 := by decide
theorem witness_literal : parseLiteral (renderLiteral ⟨5, 4⟩) = some ⟨5, 4⟩ := by decide
/-- No run, and an ended run: both are idle. -/
theorem witness_idle : State.reset.Idle ∧ ({ stateAt .halt with run := some ((runAt .halt).stop .done) } : State).Idle :=
  ⟨fun r h => (by cases h), fun r h => (by cases h; decide)⟩
theorem witness_idle_decodes : decode State.reset.request = .ok (.new 0 0) := by decide
theorem witness_table_word : decodeTableWord 8 0x0C = some (.width ⟨0, 0⟩) := by decide
/-- A settled state whose step answers. -/
theorem witness_settled : State.reset.Settled ∧ step State.reset = .next State.reset := ⟨rfl, rfl⟩

/-- The slots of the witness run are valid. -/
theorem runAt_slotsValid (l : Line) : (runAt l).SlotsValid := by
  intro n u h
  have : ∀ n : Fin 16, (runAt .halt).v[n] = none ∨ (runAt .halt).v[n] = some ⟨5, 3⟩ ∨
      (runAt .halt).v[n] = some ⟨46, 6⟩ := by decide
  have hn : (runAt .halt).v[n] = some u := h
  rcases this n with e | e | e <;> rw [e] at hn <;> cases hn <;> decide

/-- A good state, running, of each kind of line. -/
theorem witness_good (l : Line) (h : programWellFormed [l] = true) : (stateAt l).Good := by
  intro r hr
  cases hr
  exact ⟨h, runAt_slotsValid l, Nat.zero_le _⟩
theorem witness_good_jump : programWellFormed [.jmp 1] = true ∧ programWellFormed [.jmp 2] = false := by decide
theorem witness_good_start : programWellFormed [.halt] = true ∧
    ∀ (n : Fin 16) (u : Value), (unwrittenSlots : Vector (Option Value) 16)[n] = some u → u.valid = true :=
  ⟨by decide, fun n u h => by simp [unwrittenSlots] at h⟩
theorem witness_invalid_start : ((unwrittenSlots : Vector (Option Value) 16).set 15 (some ⟨2, 1⟩))[15] = some ⟨2, 1⟩ ∧
    (⟨2, 1⟩ : Value).valid = false := by decide
/-- Every line is some run's next line. -/
theorem witness_at_line (l : Line) : (stateAt l).AtLine (runAt l) l := ⟨rfl, rfl, rfl⟩
theorem witness_past_the_end : ((runAt .halt).goto 1).status = .running ∧
    ((runAt .halt).goto 1).pc = ((runAt .halt).goto 1).program.length := by decide
/-- Lines with an operand that faults, one kind each, and with two kinds; and lines with none. -/
theorem witness_line_faults (l : Line) : lineFaults (runAt l) (.issueX 1 (.hsb (.slot 9))) = [.unwritten] ∧
    lineFaults (runAt l) (.issueV 3 (.andr (.slot 0) (.imm 256))) = [.range] ∧
    lineFaults (runAt l) (.arith 1 (.shl (.imm 1) (.imm 64))) = [.shift] ∧
    lineFaults (runAt l) (.arith 1 (.div (.imm 64) (.imm 0))) = [.divZero] ∧
    lineFaults (runAt l) (.issueV 3 (.andr (.slot 9) (.imm 256))) = [.unwritten, .range] := ⟨rfl, rfl, rfl, rfl, rfl⟩
theorem witness_value_line (l : Line) : lineFaults (runAt l) (.issueV 3 (.andr (.slot 0) (.imm 255))) = [] := rfl
theorem witness_raw_line (l : Line) : lineFaults (runAt l) (.issueX 3 (.repl (.slot 0) (.imm 255))) = [] := rfl
theorem witness_operands_read (l : Line) : readValue (runAt l) (.slot 1) = .ok ⟨46, 6⟩ ∧
    readRaw (runAt l) (.slot 0) = .ok 3 ∧ readRaw (runAt l) (.imm 255) = .ok 255 ∧ (255 : Raw).toNat ≤ 255 ∧
    readByte (runAt l) (.imm 255) = .ok 255 := ⟨rfl, rfl, rfl, by decide, rfl⟩
/-- Host computations and control lines: a shift of 63 and of 64, a divisor of 1 and of 0, equal and unequal. -/
theorem witness_host_numbers : (63 : Raw).toNat < 64 ∧ 64 ≤ (64 : Raw).toNat ∧ (1 : Raw) ≠ 0 ∧ (0 : Raw) = 0 ∧ (3 : Raw) ≠ 4 := by
  decide
theorem witness_ended : ((runAt .halt).stop .done).status ≠ .running := by decide
/-- A good running state whose step ends in a fault status. -/
theorem witness_fault_status : statusAfter (.issueV 5 (.concat (.slot 0) (.slot 1))) = some (.fault .concatTooWide 0) ∧
    programWellFormed [.issueV 5 (.concat (.slot 0) (.slot 1))] = true := by decide

end Sys2Proof.Tests
end

section
/-! PROOFS. Family 10_state: valid values (R22, R23, R25) and the settled response (R36, R232). First what CORE's answer
and its value results can be, then the obligations. -/

namespace Sys2Proof.Machine

/-! ### CORE's answer: a response to the request alone (R36, R44) -/

/-- Every instruction drives a response the state has no part in, and nothing else (R44, R206). -/
theorem exec_answers (i : Instr) : Answers (exec i) := by
  cases i with
  | new r k => exact answers_checkWidth _ (answers_checkNot _ _ (answers_resultValue _ _))
  | trunc r k => exact answers_checkWidth _ (answers_resultValue _ _)
  | ones k => exact answers_checkWidth _ (answers_resultValue _ _)
  | cmp a b => exact answers_checkA _ (answers_checkB _ (answers_resultRaw _))
  | not a => exact answers_checkA _ (answers_resultValue _ _)
  | andv a b => exact answers_checkA _ (answers_checkB _ (answers_resultValue _ _))
  | andr a r => exact answers_checkA _ (answers_resultValue _ _)
  | or a b => exact answers_checkA _ (answers_checkB _ (answers_resultValue _ _))
  | sub a b => exact answers_checkA _ (answers_checkB _ (answers_checkNot _ _ (answers_resultValue _ _)))
  | sext a k => exact answers_checkA _ (answers_checkWidth _ (answers_checkNot _ _ (answers_resultValue _ _)))
  | zext a k => exact answers_checkA _ (answers_checkWidth _ (answers_checkNot _ _ (answers_resultValue _ _)))
  | concat a b => exact answers_checkA _ (answers_checkB _ (answers_checkNot _ _ (answers_resultValue _ _)))
  | width a => exact answers_checkA _ (answers_resultRaw _)
  | hsb a => exact answers_checkA _ (answers_checkNot _ _ (answers_resultRaw _))
  | rotr a r => exact answers_checkA _ (answers_resultValue _ _)
  | repl a r => exact answers_checkA _ (answers_checkNot _ _ (answers_checkNot _ _ (answers_resultRaw _)))

/-- The answer to a request is one response, whatever else the state holds (R36, R236). -/
theorem serve_answers (w : ReqWord) : ∃ r, ∀ s : State, s.request = w → serve s = .next (s.respond r) := by
  cases hd : decode w with
  | ok i =>
    obtain ⟨r, hr⟩ := exec_answers i
    exact ⟨r, fun s hs => by simp only [serve, fetch, hs, hd, hr]⟩
  | error e =>
    refine ⟨.fault .illegalOp, fun s hs => ?_⟩
    cases e <;> simp only [serve, fetch, hs, hd, raise]

theorem State.respond_eq_self_iff (s : State) (r : Response) : s.respond r = s ↔ s.response = r := by
  cases s; simp [State.respond, eq_comm]

/-! ### The settled response (R36, R232) -/

/-- A request has one response that settles it. -/
theorem settled_iff_response (w : ReqWord) : ∃ r, ∀ s : State, s.request = w → (s.Settled ↔ s.response = r) := by
  obtain ⟨r, hr⟩ := serve_answers w
  refine ⟨r, fun s hs => ?_⟩
  rw [State.Settled, hr s hs, Host.Outcome.next.injEq, State.respond_eq_self_iff]

variable {s t : State}

/-- Whether a state is settled depends on CORE's two interfaces alone, not on the run. -/
theorem State.Settled.of_interfaces_eq (hs : s.Settled) (hreq : t.request = s.request)
    (hresp : t.response = s.response) : t.Settled := by
  obtain ⟨r, hr⟩ := settled_iff_response s.request
  rw [hr t hreq, hresp]
  exact (hr s rfl).1 hs

/-- An answer of CORE settles the request it answers. -/
theorem settled_of_serve (h : serve s = .next t) : t.Settled := by
  obtain ⟨r, hr⟩ := serve_answers s.request
  rw [hr s rfl, Host.Outcome.next.injEq] at h
  subst h
  exact hr (s.respond r) rfl

variable {run : Run}

theorem hostLine_keeps_settled {r : Read Run} (hs : s.Settled) (h : hostLine run r s = .next t) : t.Settled := by
  obtain ⟨hreq, hresp, -⟩ := hostLine_next h
  exact hs.of_interfaces_eq hreq hresp

theorem issue_keeps_settled {i : Read Instr} {write : Response → Run} (hs : s.Settled)
    (h : issue run i write s = .next t) : t.Settled := by
  obtain ⟨e, -, rfl⟩ | ⟨j, u, -, hu, rfl⟩ := issue_next h
  · exact hs.of_interfaces_eq rfl rfl
  · exact (settled_of_serve hu).of_interfaces_eq rfl rfl

theorem runLine_keeps_settled {l : Line} (hs : s.Settled) (h : runLine run l s = .next t) : t.Settled := by
  cases l with
  | issueV d f => exact issue_keeps_settled hs h
  | issueX d f => exact issue_keeps_settled hs h
  | arith d c => exact hostLine_keeps_settled hs h
  | beq a b n => exact hostLine_keeps_settled hs h
  | bne a b n => exact hostLine_keeps_settled hs h
  | jmp n => exact hostLine_keeps_settled (run := run) (r := .ok (run.goto n)) hs h
  | haltIfEq a b => exact hostLine_keeps_settled hs h
  | halt => exact hostLine_keeps_settled (run := run) (r := .ok (run.stop .done)) hs h

theorem stepRun_keeps_settled (hs : s.Settled) (h : stepRun run s = .next t) : t.Settled := by
  unfold stepRun at h
  split at h
  · cases h
    exact hs.of_interfaces_eq rfl rfl
  · split at h
    · exact runLine_keeps_settled hs h
    · cases h

/-- A step is an answer of CORE, or a step of a run that is running. -/
theorem step_eq_serve_or_stepRun (s : State) :
    step s = serve s ∨ ∃ run, s.run = some run ∧ run.status = .running ∧ step s = stepRun run s := by
  unfold step advance
  split
  · exact .inl rfl
  · next run hrun =>
    split
    · next hst => exact .inr ⟨run, hrun, hst, rfl⟩
    all_goals exact .inl rfl

/-- Settles O42: CORE's answer settles its request, and the lines of a run reach CORE's interfaces only through one. -/
theorem everyStepKeepsSettled : Obligations.EveryStepKeepsSettled := by
  intro s t hs h
  obtain he | ⟨run, -, -, he⟩ := step_eq_serve_or_stepRun s <;> rw [he] at h
  · exact settled_of_serve h
  · exact stepRun_keeps_settled hs h

/-- Settles O41: the request word 0 is `NEW #0, #0`, answered BAD_WIDTH, and there is no run. -/
theorem powerUpIsSettled : Obligations.PowerUpIsSettled := by
  have hnone : ∀ r, State.reset.run ≠ some r := by simp [State.reset]
  exact ⟨rfl, fun r hr => absurd hr (hnone r), fun r hr => absurd hr (hnone r)⟩

/-! ### Value results (R25) -/

/-- Settles O19: a magnitude below 2^W is one with no set bit at W or above. -/
theorem validMeansBothInvariants : Obligations.ValidMeansBothInvariants := by
  intro v
  rw [Value.valid_iff, no_bit_from_iff]

/-- If an operation ends in a value result, the value is valid. -/
def GivesValid (res : Result) : Prop :=
  ∀ (t : State) (v : Value), res = .next t → t.response = .value v → v.valid = true

/-- The pair of two numbers in range is valid: neither is cut by its field. -/
theorem valid_ofNat {m w : Nat} (h1 : 1 ≤ w) (h8 : w ≤ 8) (hm : m < 2 ^ w) :
    (⟨BitVec.ofNat 8 m, BitVec.ofNat 4 w⟩ : Value).valid = true := by
  have hm8 : m < 2 ^ 8 := hm.trans_le (Nat.pow_le_pow_right (by decide) h8)
  have hw4 : w < 2 ^ 4 := by omega
  simp only [Value.valid_iff, Value.m, Value.w, BitVec.toNat_ofNat, Nat.mod_eq_of_lt hm8, Nat.mod_eq_of_lt hw4]
  exact ⟨h1, h8, hm⟩

variable {rest : Result}

theorem givesValid_raise (c : FaultCode) (s : State) : GivesValid (raise c s) := by
  rintro t v ⟨⟩ h
  cases h

theorem givesValid_resultRaw (x : Nat) (s : State) : GivesValid (resultRaw x s) := by
  rintro t v ⟨⟩ h
  cases h

theorem givesValid_resultValue {m w : Nat} (h1 : 1 ≤ w) (h8 : w ≤ 8) (hm : m < 2 ^ w) :
    GivesValid (resultValue m w s) := by
  rintro t v ⟨⟩ h
  cases h
  exact valid_ofNat h1 h8 hm

theorem givesValid_ite {p : Prop} [Decidable p] {res res' : Result} (h : p → GivesValid res)
    (h' : ¬ p → GivesValid res') : GivesValid (if p then res else res') := by
  split_ifs with hp
  · exact h hp
  · exact h' hp

theorem givesValid_checkA {a : Value} (h : 1 ≤ a.w → a.w ≤ 8 → a.m < 2 ^ a.w → GivesValid rest) :
    GivesValid (checkA a s rest) :=
  givesValid_ite
    (fun ha => have ⟨h1, h8, hm⟩ := a.valid_iff.1 ha; h h1 h8 hm)
    fun _ => givesValid_raise _ _

theorem givesValid_checkB {b : Value} (h : 1 ≤ b.w → b.w ≤ 8 → b.m < 2 ^ b.w → GivesValid rest) :
    GivesValid (checkB b s rest) :=
  givesValid_ite
    (fun hb => have ⟨h1, h8, hm⟩ := b.valid_iff.1 hb; h h1 h8 hm)
    fun _ => givesValid_raise _ _

theorem givesValid_checkWidth {k : Byte} (h : 1 ≤ k.toNat → k.toNat ≤ 8 → GivesValid rest) :
    GivesValid (checkWidth k s rest) :=
  givesValid_ite
    (fun hk => have ⟨h1, h8⟩ := (widthInRange_iff _).1 hk; h h1 h8)
    fun _ => givesValid_raise _ _

theorem givesValid_checkNot {c : FaultCode} {p : Prop} [Decidable p] (h : ¬ p → GivesValid rest) :
    GivesValid (checkNot (decide p) c s rest) :=
  givesValid_ite (fun _ => givesValid_raise _ _) fun hp => h (of_decide_eq_false (Bool.eq_false_of_not_eq_true hp))

/-- ANDV's magnitude fits the narrower width (R121). -/
theorem and_lt_two_pow_min {x y v w : Nat} (hx : x < 2 ^ v) (hy : y < 2 ^ w) : x &&& y < 2 ^ min v w := by
  rcases Nat.le_total v w with h | h
  · rw [Nat.min_eq_left h]
    exact Nat.and_le_left.trans_lt hx
  · rw [Nat.min_eq_right h]
    exact Nat.and_le_right.trans_lt hy

/-- OR's magnitude fits the wider width (R123). -/
theorem or_lt_two_pow_max {x y v w : Nat} (hx : x < 2 ^ v) (hy : y < 2 ^ w) : x ||| y < 2 ^ max v w :=
  Nat.or_lt_two_pow (hx.trans_le (Nat.pow_le_pow_right (by decide) (Nat.le_max_left v w)))
    (hy.trans_le (Nat.pow_le_pow_right (by decide) (Nat.le_max_right v w)))

/-- CONCAT's magnitude fits the total width (R160). -/
theorem concat_lt_two_pow_add {x y v w : Nat} (hx : x < 2 ^ v) (hy : y < 2 ^ w) :
    x <<< w ||| y < 2 ^ (v + w) := by
  refine Nat.or_lt_two_pow ?_ (hy.trans_le (Nat.pow_le_pow_right (by decide) (Nat.le_add_left w v)))
  rw [Nat.shiftLeft_eq, Nat.pow_add]
  exact Nat.mul_lt_mul_of_pos_right hx (Nat.two_pow_pos w)

/-- R25, per operation: its checks put the result width in 1..8, and its mask or its checks keep the magnitude below it. -/
theorem exec_givesValid (i : Instr) (s : State) : GivesValid (exec i s) := by
  cases i with
  | new r k =>
    exact givesValid_checkWidth fun h1 h8 => givesValid_checkNot fun hm =>
      givesValid_resultValue h1 h8 (Nat.lt_of_not_le hm)
  | trunc r k => exact givesValid_checkWidth fun h1 h8 => givesValid_resultValue h1 h8 (and_onesOf_lt _ _)
  | ones k =>
    exact givesValid_checkWidth fun h1 h8 =>
      givesValid_resultValue h1 h8 (Nat.sub_lt (Nat.two_pow_pos _) Nat.one_pos)
  | cmp a b => exact givesValid_checkA fun _ _ _ => givesValid_checkB fun _ _ _ => givesValid_resultRaw _ _
  | not a => exact givesValid_checkA fun h1 h8 _ => givesValid_resultValue h1 h8 (and_onesOf_lt _ _)
  | andv a b =>
    exact givesValid_checkA fun ha1 ha8 ha => givesValid_checkB fun hb1 _ hb =>
      givesValid_resultValue (Nat.le_min.2 ⟨ha1, hb1⟩) ((Nat.min_le_left _ _).trans ha8) (and_lt_two_pow_min ha hb)
  | andr a r =>
    exact givesValid_checkA fun h1 h8 hm => givesValid_resultValue h1 h8 (Nat.and_le_left.trans_lt hm)
  | or a b =>
    exact givesValid_checkA fun ha1 ha8 ha => givesValid_checkB fun _ hb8 hb =>
      givesValid_resultValue (ha1.trans (Nat.le_max_left _ _)) (Nat.max_le.2 ⟨ha8, hb8⟩) (or_lt_two_pow_max ha hb)
  | sub a b =>
    exact givesValid_checkA fun h1 h8 _ => givesValid_checkB fun _ _ _ => givesValid_checkNot fun _ =>
      givesValid_resultValue h1 h8 (and_onesOf_lt _ _)
  | sext a k =>
    exact givesValid_checkA fun _ _ _ => givesValid_checkWidth fun h1 h8 => givesValid_checkNot fun _ =>
      givesValid_resultValue h1 h8 (and_onesOf_lt _ _)
  | zext a k =>
    exact givesValid_checkA fun _ _ ha => givesValid_checkWidth fun h1 h8 => givesValid_checkNot fun hk =>
      givesValid_resultValue h1 h8 (ha.trans_le (Nat.pow_le_pow_right (by decide) (Nat.le_of_not_lt hk)))
  | concat a b =>
    exact givesValid_checkA fun h1 _ ha => givesValid_checkB fun _ _ hb => givesValid_checkNot fun h8 =>
      givesValid_resultValue (h1.trans (Nat.le_add_right _ _)) (Nat.le_of_not_lt h8) (concat_lt_two_pow_add ha hb)
  | width a => exact givesValid_checkA fun _ _ _ => givesValid_resultRaw _ _
  | hsb a => exact givesValid_checkA fun _ _ _ => givesValid_checkNot fun _ => givesValid_resultRaw _ _
  | rotr a r => exact givesValid_checkA fun h1 h8 _ => givesValid_resultValue h1 h8 (and_onesOf_lt _ _)
  | repl a r =>
    exact givesValid_checkA fun _ _ _ => givesValid_checkNot fun _ => givesValid_checkNot fun _ =>
      givesValid_resultRaw _ _

/-- Settles O20, by cases on the instruction. -/
theorem valueResultsAreValid : Obligations.ValueResultsAreValid := exec_givesValid

end Sys2Proof.Machine
end

section
/-! PROOFS. Family 20_memory: a request has no side effect (R44, R206, R236). CORE has no memory; what a step of an idle
machine changes is the response, and that response is the request's own. -/

namespace Sys2Proof.Machine

/-- With no running run, a step is CORE's answer to the request on its inputs (log entry 7). -/
theorem State.Idle.step_eq_serve {s : State} (h : s.Idle) : step s = serve s := by
  obtain he | ⟨run, hrun, hst, -⟩ := step_eq_serve_or_stepRun s
  · exact he
  · exact absurd hst (h run hrun)

/-- Driving the response does not touch the run, so an idle state stays idle. -/
theorem State.Idle.respond {s : State} (h : s.Idle) (r : Response) : (s.respond r).Idle := h

/-- In every idle state that carries the request, a step drives the request's one response and nothing else (R236). -/
theorem step_answers_of_idle (w : ReqWord) :
    ∃ r, ∀ s : State, s.Idle → s.request = w → step s = .next (s.respond r) := by
  obtain ⟨r, hr⟩ := serve_answers w
  exact ⟨r, fun s hi hs => hi.step_eq_serve.trans (hr s hs)⟩

/-- Settles O38: `exec_answers`, with the state's three fields written out. -/
theorem execDrivesOnlyTheResponse : Obligations.ExecDrivesOnlyTheResponse := exec_answers

/-- Settles O40: the first answer leaves the request and the run alone, so the second step answers the same request and
drives the same response over the one already there. -/
theorem presentingTwiceAnswersAlike : Obligations.PresentingTwiceAnswersAlike := by
  intro s hi
  obtain ⟨r, hr⟩ := step_answers_of_idle s.request
  have first : step s = .next (s.respond r) := hr s hi rfl
  have second : step (s.respond r) = .next (s.respond r) := by
    rw [hr (s.respond r) (hi.respond r) (s.respond_request r), State.respond_respond]
  exact ⟨r, first, second⟩

end Sys2Proof.Machine
end

section
/-! PROOFS. Family 30_encoding, the words of instructions: what a word must hold to decode to an instruction (R64, R67,
R69), and the obligations on decoding and encoding. -/

namespace Sys2Proof

/-! ### The fields of a word (R61) -/

/-- A word is packed from its fields. -/
theorem packRequest_fields (w : ReqWord) : packRequest (reqOP w) (reqA w) (reqB w) (reqR w) (reqK w) = w := by
  simp only [packRequest, reqA, reqB, reqOP, reqAM, reqAW, reqBW, reqBM, reqR, reqK,
    BitVec.extractLsb'_append_extractLsb'_eq_extractLsb']
  exact BitVec.extractLsb'_eq_self

section
variable (op : Byte) (a b : Value) (r k : Byte)

theorem reqA_packRequest : reqA (packRequest op a b r k) = a := by
  rw [reqA, reqAM_packRequest, reqAW_packRequest]

theorem reqB_packRequest : reqB (packRequest op a b r k) = b := by
  rw [reqB, reqBM_packRequest, reqBW_packRequest]

end

/-! ### The operation and the raw operands of an instruction -/

/-- The OP of an instruction (R64). -/
def Instr.opcode : Instr → Byte
  | .new _ _ => 0x00
  | .trunc _ _ => 0x01
  | .ones _ => 0x02
  | .cmp _ _ => 0x03
  | .not _ => 0x04
  | .andv _ _ => 0x05
  | .andr _ _ => 0x06
  | .or _ _ => 0x07
  | .sub _ _ => 0x08
  | .sext _ _ => 0x09
  | .zext _ _ => 0x0A
  | .concat _ _ => 0x0B
  | .width _ => 0x0C
  | .hsb _ => 0x0D
  | .rotr _ _ => 0x0E
  | .repl _ _ => 0x0F

/-- Raw operand R, for the operations that read it (R64). -/
def Instr.operandR : Instr → Option Byte
  | .new r _ | .trunc r _ | .andr _ r | .rotr _ r | .repl _ r => some r
  | _ => none

/-- Raw width operand K, for the operations that read it (R64). -/
def Instr.operandK : Instr → Option Byte
  | .new _ k | .trunc _ k | .ones k | .sext _ k | .zext _ k => some k
  | _ => none

/-- The word of an instruction holds its OP and the operands it reads, and 0 for the others (R80). -/
theorem encode_eq_packRequest (i : Instr) :
    encode i = packRequest i.opcode (i.operandA.getD noValue) (i.operandB.getD noValue) (i.operandR.getD 0)
      (i.operandK.getD 0) := by
  cases i <;> rfl

/-- A field's mask: `ones` where an operand is read, else `zero`. -/
def maskOf {α β : Type} (ones zero : β) : Option α → β
  | some _ => ones
  | none => zero

/-- The bits an operation reads are its OP and the fields of the operands it reads. -/
theorem readMask_opcode (i : Instr) :
    readMask i.opcode = packRequest 0xFF (maskOf Laws.EncodedFields.full noValue i.operandA)
      (maskOf Laws.EncodedFields.full noValue i.operandB) (maskOf 0xFF 0 i.operandR)
      (maskOf 0xFF 0 i.operandK) := by
  cases i <;>
    · simp only [Instr.opcode, Instr.operandA, Instr.operandB, Instr.operandR, Instr.operandK, maskOf]
      decide

/-- The word carries the instruction: its OP is the operation's, and the fields the operation reads are the operands.
(Where an operand is not read, `getD` says nothing of its field.) -/
structure Carries (w : ReqWord) (i : Instr) : Prop where
  op : reqOP w = i.opcode
  a : i.operandA.getD (reqA w) = reqA w
  b : i.operandB.getD (reqB w) = reqB w
  r : i.operandR.getD (reqR w) = reqR w
  k : i.operandK.getD (reqK w) = reqK w

/-- What the decoder accepts, once for all sixteen operations (R69). -/
theorem decode_eq_ok_iff (w : ReqWord) (i : Instr) : decode w = .ok i ↔ Carries w i := by
  constructor
  · intro h
    unfold decode at h
    split at h
    case h_17 => cases h
    all_goals
      next hop =>
        cases h
        exact ⟨BitVec.eq_of_toNat_eq hop, rfl, rfl, rfl, rfl⟩
  · rintro ⟨hop, ha, hb, hr, hk⟩
    unfold decode
    rw [hop]
    -- in each case a field that is read is substituted by its operand
    cases i <;> (cases ha; cases hb; cases hr; cases hk; rfl)

/-- Settles O32: the lemma of each constructor. -/
theorem encodedWordsZeroUnreadFields : Obligations.EncodedWordsZeroUnreadFields := by
  intro i
  cases i with
  | new r k => exact Laws.EncodedFields.new r k
  | trunc r k => exact Laws.EncodedFields.trunc r k
  | ones k => exact Laws.EncodedFields.ones k
  | cmp a b => exact Laws.EncodedFields.cmp a b
  | not a => exact Laws.EncodedFields.not a
  | andv a b => exact Laws.EncodedFields.andv a b
  | andr a r => exact Laws.EncodedFields.andr a r
  | or a b => exact Laws.EncodedFields.or a b
  | sub a b => exact Laws.EncodedFields.sub a b
  | sext a k => exact Laws.EncodedFields.sext a k
  | zext a k => exact Laws.EncodedFields.zext a k
  | concat a b => exact Laws.EncodedFields.concat a b
  | width a => exact Laws.EncodedFields.width a
  | hsb a => exact Laws.EncodedFields.hsb a
  | rotr a r => exact Laws.EncodedFields.rotr a r
  | repl a r => exact Laws.EncodedFields.repl a r

/-! ### Decoding and encoding are inverse (R80) -/

/-- Filling a missing operand twice is filling it once. -/
theorem getD_getD_self {α : Type} (o : Option α) (d : α) : o.getD (o.getD d) = o.getD d := by
  cases o <;> rfl

/-- The word an assembler writes for an instruction carries it. -/
theorem carries_encode (i : Instr) : Carries (encode i) i := by
  rw [encode_eq_packRequest]
  constructor
  · exact reqOP_packRequest _ _ _ _ _
  · rw [reqA_packRequest, getD_getD_self]
  · rw [reqB_packRequest, getD_getD_self]
  · rw [reqR_packRequest, getD_getD_self]
  · rw [reqK_packRequest, getD_getD_self]

/-- Settles O29: the encoded word carries the instruction. -/
theorem decodeOfEncode : Obligations.DecodeOfEncode := fun i => (decode_eq_ok_iff _ i).2 (carries_encode i)

/-- A masked raw field: the operand where it is read, else 0. -/
theorem and_maskOf {o : Option Byte} {x : Byte} (h : o.getD x = x) : x &&& maskOf 0xFF 0 o = o.getD 0 := by
  cases o with
  | none => exact BitVec.and_zero
  | some y => exact (Laws.EncodedFields.keep x).trans h.symm

/-- A masked value field: the operand where it is read, else 0. -/
theorem value_and_maskOf {o : Option Value} {v : Value} (h : o.getD v = v) :
    (⟨v.mag &&& (maskOf Laws.EncodedFields.full noValue o).mag,
      v.width &&& (maskOf Laws.EncodedFields.full noValue o).width⟩ : Value) = o.getD noValue := by
  cases o with
  | none => simp [maskOf, noValue]
  | some u => exact (Laws.EncodedFields.keepValue v).trans h.symm

/-- Of a word that carries an instruction, the bits its operation reads are the assembler's word. -/
theorem Carries.encode_eq {w : ReqWord} {i : Instr} (h : Carries w i) : encode i = w &&& readMask (reqOP w) := by
  obtain ⟨hop, ha, hb, hr, hk⟩ := h
  calc encode i
    _ = packRequest (reqOP w &&& 0xFF) (i.operandA.getD noValue) (i.operandB.getD noValue) (i.operandR.getD 0)
          (i.operandK.getD 0) := by rw [encode_eq_packRequest, Laws.EncodedFields.keep, hop]
    _ = packRequest (reqOP w) (reqA w) (reqB w) (reqR w) (reqK w) &&& readMask (reqOP w) := by
      rw [hop, readMask_opcode, packRequest_and, value_and_maskOf ha, value_and_maskOf hb, and_maskOf hr, and_maskOf hk]
    _ = w &&& readMask (reqOP w) := by rw [packRequest_fields]

/-- Encoding a decoded word clears the bits its operation does not read (R67, R80). -/
theorem encode_of_decode {w : ReqWord} {i : Instr} (h : decode w = .ok i) : encode i = w &&& readMask (reqOP w) :=
  ((decode_eq_ok_iff w i).1 h).encode_eq

/-- Settles O30: a word that decodes to an instruction carries it. -/
theorem encodeOfDecode : Obligations.EncodeOfDecode := fun _ _ => encode_of_decode

/-! ### Reserved opcodes and unread fields (R65, R67) -/

/-- The sixteen operations have the opcodes below 0x10. -/
theorem Instr.opcode_lt (i : Instr) : i.opcode.toNat < 0x10 := by
  cases i <;> simp [Instr.opcode]

/-- A word names an operation, or its OP is reserved. -/
theorem decode_total (w : ReqWord) :
    (∃ i, decode w = .ok i) ∨ decode w = .error (.illegalOp (reqOP w)) ∧ 0x10 ≤ (reqOP w).toNat := by
  unfold decode
  split
  case h_17 =>
    refine .inr ⟨rfl, ?_⟩
    simp only [imp_false] at *
    omega
  all_goals exact .inl ⟨_, rfl⟩

theorem reqOP_lt_of_decode {w : ReqWord} {i : Instr} (h : decode w = .ok i) : (reqOP w).toNat < 0x10 := by
  rw [((decode_eq_ok_iff w i).1 h).op]
  exact i.opcode_lt

/-- The decoder rejects reserved opcodes, and only those (R65). -/
theorem decode_eq_illegalOp_iff (w : ReqWord) :
    decode w = .error (.illegalOp (reqOP w)) ↔ 0x10 ≤ (reqOP w).toNat := by
  obtain ⟨i, hi⟩ | ⟨he, h⟩ := decode_total w
  · have hlt := reqOP_lt_of_decode hi
    simp only [hi, reduceCtorEq, false_iff]
    omega
  · exact iff_of_true he h

theorem encode_injective : Function.Injective encode := by
  intro i j h
  have hij : decode (encode i) = decode (encode j) := congrArg decode h
  rw [decodeOfEncode i, decodeOfEncode j] at hij
  exact Except.ok.inj hij

/-- Every operation reads its OP. -/
theorem reqOP_readMask (op : Byte) : reqOP (readMask op) = 0xFF := by
  unfold readMask
  split <;> rfl

theorem reqOP_and_readMask (w : ReqWord) (op : Byte) : reqOP (w &&& readMask op) = reqOP w :=
  calc reqOP (w &&& readMask op)
    _ = reqOP w &&& reqOP (readMask op) := BitVec.extractLsb'_and
    _ = reqOP w := by rw [reqOP_readMask, Laws.EncodedFields.keep]

/-- Words that agree on the bits their operation reads decode alike (R67). -/
theorem decode_eq_of_agree {w w' : ReqWord} (h : w &&& readMask (reqOP w) = w' &&& readMask (reqOP w)) :
    decode w = decode w' := by
  have hop : reqOP w = reqOP w' := by
    rw [← reqOP_and_readMask w (reqOP w), h, reqOP_and_readMask]
  obtain ⟨i, hi⟩ | ⟨he, hres⟩ := decode_total w
  · obtain ⟨j, hj⟩ | ⟨-, hres⟩ := decode_total w'
    · have henc : encode i = encode j := by rw [encode_of_decode hi, h, hop, encode_of_decode hj]
      rw [hi, hj, encode_injective henc]
    · exact absurd (hop ▸ reqOP_lt_of_decode hi) hres.not_gt
  · rw [he, (decode_eq_illegalOp_iff w').2 (hop ▸ hres), hop]

end Sys2Proof
end

section
/-! PROOFS. Family 30_encoding, the bytes of a word (R72), the layout of a response word (R70, R71), and a step of an
idle machine seen through the decoder (R65, R67, R69). -/

namespace Sys2Proof

/-! ### Bytes (R72) -/

theorem bytesOf_getElem? {w n i : Nat} (x : BitVec w) (h : i < n) :
    (bytesOf n x)[i]? = some (x.extractLsb' (8 * i) 8) := by
  simp [bytesOf, h]

theorem length_bytesOf {w : Nat} (n : Nat) (x : BitVec w) : (bytesOf n x).length = n := by
  simp [bytesOf]

/-- The six bytes of a request, highest first, are the request. -/
theorem joined_bytes (w : ReqWord) :
    w.extractLsb' 40 8 ++ w.extractLsb' 32 8 ++ w.extractLsb' 24 8 ++ w.extractLsb' 16 8 ++ w.extractLsb' 8 8 ++
      w.extractLsb' 0 8 = w := by
  simp only [BitVec.extractLsb'_append_extractLsb'_eq_extractLsb']
  exact BitVec.extractLsb'_eq_self

theorem decodeBytes_requestBytes (w : ReqWord) (rest : List Byte) :
    decodeBytes (requestBytes w ++ rest) = (decode w).map fun i => (i, rest) := by
  have hbytes : requestBytes w ++ rest = w.extractLsb' 0 8 :: w.extractLsb' 8 8 :: w.extractLsb' 16 8 ::
      w.extractLsb' 24 8 :: w.extractLsb' 32 8 :: w.extractLsb' 40 8 :: rest := rfl
  rw [hbytes, decodeBytes, joined_bytes]
  cases decode w <;> rfl

/-- Settles O33. -/
theorem bytesAreLittleEndian : Obligations.BytesAreLittleEndian :=
  ⟨fun w _ => bytesOf_getElem? w, fun w _ => bytesOf_getElem? w,
    fun w w' => ⟨length_bytesOf 6 w, length_bytesOf 10 w'⟩, decodeBytes_requestBytes⟩

/-- A table row decodes to an instruction exactly when its word does. -/
theorem decodeTableWord_eq_some_iff (nbits w : Nat) (i : Instr) :
    decodeTableWord nbits w = some i ↔ decode (tableWord nbits w) = .ok i := by
  have hbytes := decodeBytes_requestBytes (tableWord nbits w) []
  rw [List.append_nil] at hbytes
  unfold decodeTableWord
  rw [hbytes]
  cases decode (tableWord nbits w) <;> simp [Except.map]

/-- Settles O34: six closed words. -/
theorem exampleWordsDecode : Obligations.ExampleWordsDecode := by
  unfold Obligations.ExampleWordsDecode
  decide

namespace Machine

/-! ### The response word (R70, R71) -/

section
variable (r : Response)

theorem Response.word_st : r.word.extractLsb' 0 4 = r.st := BitVec.extractLsb'_append_eq_right

theorem Response.word_rw : r.word.extractLsb' 4 4 = r.rw :=
  (BitVec.extractLsb'_append_eq_of_le (by decide)).trans BitVec.extractLsb'_append_eq_right

theorem Response.word_rm : r.word.extractLsb' 8 8 = r.rm :=
  (BitVec.extractLsb'_append_eq_of_le (by decide)).trans <|
    (BitVec.extractLsb'_append_eq_of_le (by decide)).trans BitVec.extractLsb'_append_eq_right

theorem Response.word_x : r.word.extractLsb' 16 64 = r.x :=
  (BitVec.extractLsb'_append_eq_of_le (by decide)).trans <|
    (BitVec.extractLsb'_append_eq_of_le (by decide)).trans BitVec.extractLsb'_append_eq_left

end

/-- Settles O28: the fields of the word are the fields of the response. -/
theorem responseWordLayout : Obligations.ResponseWordLayout :=
  ⟨fun v => ⟨Response.word_st (.value v), Response.word_rw (.value v), Response.word_rm (.value v),
      Response.word_x (.value v)⟩,
    fun x => ⟨Response.word_st (.raw x), Response.word_rw (.raw x), Response.word_rm (.raw x),
      Response.word_x (.raw x)⟩,
    fun c => Response.word_st (.fault c)⟩

/-! ### CORE's answer, by what the decoder says of the request (R65, R67, R69) -/

variable {s : State}

theorem serve_of_decode_ok {i : Instr} (h : decode s.request = .ok i) : serve s = exec i s := by
  simp only [serve, fetch, h]

theorem serve_of_decode_error {e : DecodeError} (h : decode s.request = .error e) : serve s = raise .illegalOp s := by
  cases e <;> simp only [serve, fetch, h]

/-- Requests that decode alike have one response. -/
theorem serve_answers_of_decode (d : Except DecodeError Instr) :
    ∃ r, ∀ s : State, decode s.request = d → serve s = .next (s.respond r) := by
  cases d with
  | ok i =>
    obtain ⟨r, hr⟩ := exec_answers i
    exact ⟨r, fun s hs => (serve_of_decode_ok hs).trans (hr s)⟩
  | error e => exact ⟨.fault .illegalOp, fun s => serve_of_decode_error⟩

/-- Idleness is a matter of the run alone. -/
theorem State.Idle.present (h : s.Idle) (w : ReqWord) : (s.present w).Idle := h

/-- Settles O31: such words decode alike, and CORE answers the decoded instruction. -/
theorem unreadFieldsAreIgnored : Obligations.UnreadFieldsAreIgnored := by
  intro w w' h
  have hd : decode w = decode w' := decode_eq_of_agree h
  obtain ⟨r, hr⟩ := serve_answers_of_decode (decode w')
  refine ⟨hd, fun s hs => ⟨r, ?_, ?_⟩⟩
  · exact (hs.present w).step_eq_serve.trans (hr (s.present w) hd)
  · exact (hs.present w').step_eq_serve.trans (hr (s.present w') rfl)

/-- Settles O26. -/
theorem reservedOpcodesAreIllegal : Obligations.ReservedOpcodesAreIllegal := by
  intro w
  refine ⟨decode_eq_illegalOp_iff w, fun h s hs => ?_⟩
  exact (hs.present w).step_eq_serve.trans (serve_of_decode_error ((decode_eq_illegalOp_iff w).2 h))

theorem State.Idle.step_eq_exec {i : Instr} (h : s.Idle) (hd : decode s.request = .ok i) : step s = exec i s :=
  h.step_eq_serve.trans (serve_of_decode_ok hd)

/-- A table row's word is placed with no run, so the next step is CORE's (log entry 6). -/
theorem idle_withFetchWord (s : State) (nbits w : Nat) : (s.withFetchWord nbits w).Idle := by
  rintro r ⟨⟩

/-- Settles O37. -/
theorem stepRunsTheDecodedRequest : Obligations.StepRunsTheDecodedRequest :=
  ⟨fun _ _ => State.Idle.step_eq_exec, fun s nbits w i h =>
    (idle_withFetchWord s nbits w).step_eq_exec ((decodeTableWord_eq_some_iff nbits w i).1 h)⟩

end Machine
end Sys2Proof
end

section
/-! PROOFS. Family 30_encoding, the assembler's literals and forms (R80 to R84, R193). -/

namespace Sys2Proof.Machine

/-! ### Digits (R83) -/

/-- Digits after `acc` write a number that stands below `acc + 1`, shifted by the digits. -/
theorem digitsFrom_lt {base : Nat} : ∀ {cs : List Char} {acc n : Nat},
    digitsFrom base cs acc = some n → n < (acc + 1) * base ^ cs.length
  | [], acc, n, h => by
    cases h
    simp
  | c :: cs, acc, n, h => by
    rw [digitsFrom] at h
    split_ifs at h with hc
    calc n
      _ < (acc * base + digitValue c + 1) * base ^ cs.length := digitsFrom_lt h
      _ ≤ ((acc + 1) * base) * base ^ cs.length := by gcongr; rw [Nat.succ_mul]; omega
      _ = (acc + 1) * base ^ (c :: cs).length := by rw [List.length_cons, Nat.pow_succ']; ring

theorem parseDigits_eq_some {base n : Nat} {cs : List Char} (h : parseDigits base cs = some n) :
    1 ≤ cs.length ∧ n < base ^ cs.length := by
  unfold parseDigits at h
  split_ifs at h with hcs
  have hlt := digitsFrom_lt h
  rw [Nat.zero_add, Nat.one_mul] at hlt
  exact ⟨List.length_pos_iff.2 fun hnil => hcs (List.isEmpty_iff.2 hnil), hlt⟩

/-! ### Literals (R81, R82) -/

/-- A literal that parses has at most 8 digits; they are the magnitude and their number is the width. -/
theorem parseLiteral_eq_some {cs : List Char} {v : Value} (h : parseLiteral cs = some v) :
    ∃ ds m, parseDigits 2 ds = some m ∧ ds.length ≤ 8 ∧ v = ⟨BitVec.ofNat 8 m, BitVec.ofNat 4 ds.length⟩ := by
  unfold parseLiteral at h
  split at h
  · split at h
    · next ds _ =>
      split at h
      · next m hm =>
        split_ifs at h with hlen
        exact ⟨ds, m, hm, hlen, (Option.some.inj h).symm⟩
      · cases h
    · cases h
  · cases h

theorem valid_of_parseLiteral {cs : List Char} {v : Value} (h : parseLiteral cs = some v) : v.valid = true := by
  obtain ⟨ds, m, hm, h8, rfl⟩ := parseLiteral_eq_some h
  obtain ⟨h1, hlt⟩ := parseDigits_eq_some hm
  exact valid_ofNat h1 h8 hlt

theorem length_binaryDigits (m w : Nat) : (binaryDigits m w).length = w := by
  induction w with
  | zero => rfl
  | succ w ih => rw [binaryDigits, List.length_cons, ih]

theorem mem_binaryDigits {m w : Nat} {c : Char} (h : c ∈ binaryDigits m w) : c = '0' ∨ c = '1' := by
  induction w with
  | zero => cases h
  | succ w ih =>
    rw [binaryDigits, List.mem_cons] at h
    obtain rfl | h := h
    · split_ifs <;> simp
    · exact ih h

theorem digitValue_bit (b : Bool) : digitValue (if b then '1' else '0') = b.toNat := by
  cases b <;> rfl

/-- The binary digits of a number are read back as its low bits. -/
theorem digitsFrom_binaryDigits (m w acc : Nat) :
    digitsFrom 2 (binaryDigits m w) acc = some (acc * 2 ^ w + m % 2 ^ w) := by
  induction w generalizing acc with
  | zero => simp [binaryDigits, digitsFrom, Nat.mod_one]
  | succ w ih =>
    have hmod : m % 2 ^ (w + 1) = m % 2 ^ w + 2 ^ w * (m.testBit w).toNat := by
      rw [Nat.mod_pow_succ, Nat.toNat_testBit]
    rw [binaryDigits, digitsFrom, digitValue_bit, if_pos (Bool.toNat_lt _), ih, hmod]
    congr 1
    ring

theorem parseDigits_binaryDigits {m w : Nat} (h1 : 1 ≤ w) (hm : m < 2 ^ w) :
    parseDigits 2 (binaryDigits m w) = some m := by
  have hne : ¬ (binaryDigits m w).isEmpty = true := by
    rw [← List.length_eq_zero_iff.trans List.isEmpty_iff.symm, length_binaryDigits]
    omega
  rw [parseDigits, if_neg hne, digitsFrom_binaryDigits, Nat.zero_mul, Nat.zero_add, Nat.mod_eq_of_lt hm]

/-- A digit string without `_` has no separator to drop. -/
theorem dropSeparators_of_not_mem {cs : List Char} (h : '_' ∉ cs) : dropSeparators cs = some cs := by
  have hends : ¬ (cs.head? = some '_' ∨ cs.getLast? = some '_') := by
    rintro (hh | hl)
    · exact h (List.mem_of_head? hh)
    · exact h (List.mem_of_getLast? hl)
  rw [dropSeparators, if_neg hends, List.filter_eq_self.2 fun c hc => decide_eq_true (ne_of_mem_of_not_mem hc h)]

theorem parseLiteral_renderLiteral {v : Value} (h : v.valid = true) : parseLiteral (renderLiteral v) = some v := by
  obtain ⟨h1, h8, hm⟩ := v.valid_iff.1 h
  have hsep : '_' ∉ binaryDigits v.m v.w := fun hmem => by
    cases mem_binaryDigits hmem <;> contradiction
  simp only [renderLiteral, parseLiteral, dropSeparators_of_not_mem hsep, parseDigits_binaryDigits h1 hm,
    length_binaryDigits, if_pos h8, Value.eta_ofNat]

/-- Settles O35. -/
theorem literalsCarryTheirWidth : Obligations.LiteralsCarryTheirWidth := by
  refine ⟨fun _ _ => valid_of_parseLiteral, fun v h => ⟨?_, parseLiteral_renderLiteral h⟩⟩
  rw [renderLiteral, List.length_cons, List.length_cons, length_binaryDigits]
  exact Nat.add_comm v.w 2

/-! ### The pseudo-instruction LIT (R84) -/

variable {run : Run}

/-- A number that fits an 8-bit field is read as it stands. -/
theorem readByte_imm {n : Nat} (x : BitVec n) (hn : n ≤ 8) :
    readByte run (.imm (x.setWidth 64)) = .ok (x.setWidth 8) := by
  have hx : x.toNat < 2 ^ 8 := x.isLt.trans_le (Nat.pow_le_pow_right (by decide) hn)
  have hle : (x.setWidth 64).toNat ≤ 255 := by
    rw [BitVec.toNat_setWidth]
    exact (Nat.mod_le _ _).trans (Nat.le_of_lt_succ hx)
  simp only [readByte, readRaw, if_pos hle, BitVec.setWidth_setWidth_of_le x (show 8 ≤ 64 by decide)]

/-- NEW of the two numbers of a valid value answers that value (R101). -/
theorem exec_new_of_valid {v : Value} (h : v.valid = true) (s : State) :
    exec (.new v.mag (v.width.setWidth 8)) s = .next (s.respond (.value v)) := by
  obtain ⟨h1, h8, hm⟩ := v.valid_iff.1 h
  have hk : (v.width.setWidth 8).toNat = v.w := by
    rw [BitVec.toNat_setWidth, Nat.mod_eq_of_lt (v.w_lt.trans (by decide))]
  calc exec (.new v.mag (v.width.setWidth 8)) s
    _ = checkNot (decide (2 ^ (v.width.setWidth 8).toNat ≤ v.mag.toNat)) .magTooWide s
          (resultValue v.mag.toNat (v.width.setWidth 8).toNat s) := checkWidth_of_inRange (hk ▸ h1) (hk ▸ h8)
    _ = resultValue v.m v.w s := by rw [hk, checkNot_of_good (decide_eq_false (Nat.not_le.2 hm))]
    _ = .next (s.respond (.value v)) := by rw [resultValue, Value.eta_ofNat]

/-- Settles O36. -/
theorem litNeverFaults : Obligations.LitNeverFaults := by
  intro cs v run s h
  refine ⟨.new (.imm (v.mag.setWidth 64)) (.imm (v.width.setWidth 64)), ?_, ?_, ?_⟩
  · simp only [parseValueForm, form1, h, Option.map_some]
  · simp only [resolveValueForm, readByte_imm v.mag le_rfl, readByte_imm v.width (show 4 ≤ 8 by decide), both,
      Except.map, BitVec.setWidth_eq]
  · exact exec_new_of_valid (valid_of_parseLiteral h) s

/-! ### Forms (R80, R193) -/

/-- Settles O47: a form of two operands pairs what `both` reads, and a form of one maps its reading. -/
theorem formsBuildTheirRequest : Obligations.FormsBuildTheirRequest := by
  intro run p q m w a b r k hp hq hm hw
  simp only [resolveValueForm, resolveRawForm, both, Except.map, hp, hq, hm, hw, and_self]

/-! ### Progress (R69, R195) -/

theorem hostLine_total (run : Run) (r : Read Run) (s : State) : ∃ t, hostLine run r s = .next t := by
  cases r <;> exact ⟨_, rfl⟩

/-- CORE answers every request, so a block-issue line never stops the machine. -/
theorem issue_total (run : Run) (i : Read Instr) (write : Response → Run) (s : State) :
    ∃ t, issue run i write s = .next t := by
  cases i with
  | error e => exact ⟨_, rfl⟩
  | ok j =>
    obtain ⟨r, hr⟩ := serve_answers (encode j)
    simp only [issue, hr (s.present (encode j)) rfl]
    exact ⟨_, rfl⟩

theorem runLine_total (run : Run) (l : Line) (s : State) : ∃ t, runLine run l s = .next t := by
  cases l with
  | issueV d f => exact issue_total _ _ _ _
  | issueX d f => exact issue_total _ _ _ _
  | arith d c => exact hostLine_total _ _ _
  | beq a b n => exact hostLine_total _ _ _
  | bne a b n => exact hostLine_total _ _ _
  | jmp n => exact hostLine_total run (.ok (run.goto n)) s
  | haltIfEq a b => exact hostLine_total _ _ _
  | halt => exact hostLine_total run (.ok (run.stop .done)) s

/-- A line counter in the program or at its end always has a next state. -/
theorem stepRun_total (s : State) (h : run.pc ≤ run.program.length) : ∃ t, stepRun run s = .next t := by
  unfold stepRun
  split_ifs with hend
  · exact ⟨_, rfl⟩
  · rw [List.getElem?_eq_getElem (by omega)]
    exact runLine_total _ _ _

/-- Settles O54: CORE answers every request, and a good run's line counter lies in its program or at the end. -/
theorem goodStatesNeverStop : Obligations.GoodStatesNeverStop := by
  intro s hs
  obtain he | ⟨run, hrun, -, he⟩ := step_eq_serve_or_stepRun s <;> rw [he]
  · obtain ⟨r, hr⟩ := serve_answers s.request
    exact ⟨_, hr s rfl⟩
  · obtain ⟨-, -, hpc⟩ := hs run hrun
    exact stepRun_total s hpc

end Sys2Proof.Machine
end

section
/-! PROOFS. Family 40_construct_compare: NEW, TRUNC, ONES, CMP, and the check of value operands (R100 to R104). First what
the operands' checks can do for any instruction, then what each operation answers, then the obligations. -/

namespace Sys2Proof.Machine

variable {a b : Value} {r k : Byte} {s : State} {rest : Result}

/-! ### Value operands are checked first (R100) -/

/-- The check of a value operand, where the operation reads one. -/
def checkRead (o : Option Value) (c : FaultCode) (s : State) (rest : Result) : Result :=
  if o.all Value.valid then rest else raise c s

theorem checkRead_of_valid {o : Option Value} {c : FaultCode} (h : o.all Value.valid = true) :
    checkRead o c s rest = rest := if_pos h

theorem checkRead_of_invalid {o : Option Value} {c : FaultCode} (h : o.all Value.valid = false) :
    checkRead o c s rest = raise c s := if_neg (Bool.eq_false_iff.1 h)

@[simp] theorem State.respond_inj {r r' : Response} : s.respond r = s.respond r' ↔ r = r' :=
  ⟨congrArg State.response, congrArg s.respond⟩

theorem raise_eq_raise_iff {c d : FaultCode} : raise c s = raise d s ↔ c = d := by
  simp only [raise, Host.Outcome.next.injEq, State.respond_inj, Response.fault.injEq]

/-- The result is no operand fault. -/
def NoOperandFault (s : State) (res : Result) : Prop := res ≠ raise .badOperandA s ∧ res ≠ raise .badOperandB s

theorem noOperandFault_respond {r : Response} (hA : r ≠ .fault .badOperandA) (hB : r ≠ .fault .badOperandB) :
    NoOperandFault s (.next (s.respond r)) := by
  simpa only [NoOperandFault, raise, ne_eq, Host.Outcome.next.injEq, State.respond_inj] using ⟨hA, hB⟩

theorem noOperandFault_resultValue (m w : Nat) : NoOperandFault s (resultValue m w s) :=
  noOperandFault_respond (by simp) (by simp)

theorem noOperandFault_resultRaw (x : Nat) : NoOperandFault s (resultRaw x s) :=
  noOperandFault_respond (by simp) (by simp)

theorem noOperandFault_checkWidth (h : NoOperandFault s rest) : NoOperandFault s (checkWidth k s rest) := by
  rw [checkWidth]
  split_ifs
  · exact h
  · exact noOperandFault_respond (by simp) (by simp)

theorem noOperandFault_checkNot {bad : Bool} {c : FaultCode} (h : NoOperandFault s rest)
    (hA : c ≠ .badOperandA := by decide) (hB : c ≠ .badOperandB := by decide) :
    NoOperandFault s (checkNot bad c s rest) := by
  rw [checkNot]
  split_ifs
  · exact noOperandFault_respond (by simpa using hA) (by simpa using hB)
  · exact h

/-- Every instruction checks the A it reads, then the B it reads, and the rest of it raises neither fault (R100, R202). -/
theorem exec_eq_checkRead (i : Instr) (s : State) : ∃ rest, NoOperandFault s rest ∧
    exec i s = checkRead i.operandA .badOperandA s (checkRead i.operandB .badOperandB s rest) := by
  cases i with
  | new r k => exact ⟨_, noOperandFault_checkWidth (noOperandFault_checkNot (noOperandFault_resultValue _ _)), rfl⟩
  | trunc r k => exact ⟨_, noOperandFault_checkWidth (noOperandFault_resultValue _ _), rfl⟩
  | ones k => exact ⟨_, noOperandFault_checkWidth (noOperandFault_resultValue _ _), rfl⟩
  | cmp a b => exact ⟨_, noOperandFault_resultRaw _, rfl⟩
  | not a => exact ⟨_, noOperandFault_resultValue _ _, rfl⟩
  | andv a b => exact ⟨_, noOperandFault_resultValue _ _, rfl⟩
  | andr a r => exact ⟨_, noOperandFault_resultValue _ _, rfl⟩
  | or a b => exact ⟨_, noOperandFault_resultValue _ _, rfl⟩
  | sub a b => exact ⟨_, noOperandFault_checkNot (noOperandFault_resultValue _ _), rfl⟩
  | sext a k => exact ⟨_, noOperandFault_checkWidth (noOperandFault_checkNot (noOperandFault_resultValue _ _)), rfl⟩
  | zext a k => exact ⟨_, noOperandFault_checkWidth (noOperandFault_checkNot (noOperandFault_resultValue _ _)), rfl⟩
  | concat a b => exact ⟨_, noOperandFault_checkNot (noOperandFault_resultValue _ _), rfl⟩
  | width a => exact ⟨_, noOperandFault_resultRaw _, rfl⟩
  | hsb a => exact ⟨_, noOperandFault_checkNot (noOperandFault_resultRaw _), rfl⟩
  | rotr a r => exact ⟨_, noOperandFault_resultValue _ _, rfl⟩
  | repl a r => exact ⟨_, noOperandFault_checkNot (noOperandFault_checkNot (noOperandFault_resultRaw _)), rfl⟩

/-- Settles O24, by cases on whether the A that is read, and then the B that is read, is valid. -/
theorem operandsAreCheckedFirst : Obligations.OperandsAreCheckedFirst := by
  intro i s
  obtain ⟨rest, ⟨hrestA, hrestB⟩, he⟩ := exec_eq_checkRead i s
  change (exec i s = raise .badOperandA s ↔ _) ∧ (exec i s = raise .badOperandB s ↔ _)
  rw [he, ← Option.all_eq_false, ← Option.all_eq_true, ← Option.all_eq_false]
  cases hA : i.operandA.all Value.valid
  case false => simp [checkRead_of_invalid hA, raise_eq_raise_iff]
  case true =>
    rw [checkRead_of_valid hA]
    cases hB : i.operandB.all Value.valid
    case false => simp [checkRead_of_invalid hB, raise_eq_raise_iff]
    case true => simp [checkRead_of_valid hB, hrestA, hrestB]

/-! ### Construction (R101 to R103) -/

/-- A value result of width K, K being a width operand. -/
theorem resultValue_width (m : Nat) (k : Byte) (s : State) :
    resultValue m k.toNat s = .next (s.respond (.value ⟨BitVec.ofNat 8 m, k.setWidth 4⟩)) := by
  rw [resultValue, BitVec.ofNat_toNat 4 k]

/-- The same, of a magnitude held in a byte. -/
theorem resultValue_byte (m k : Byte) (s : State) :
    resultValue m.toNat k.toNat s = .next (s.respond (.value ⟨m, k.setWidth 4⟩)) := by
  rw [resultValue_width, BitVec.ofNat_toNat, BitVec.setWidth_eq]

/-- NEW after its width check. -/
theorem exec_new_of_inRange (h1 : 1 ≤ k.toNat) (h8 : k.toNat ≤ 8) :
    exec (.new r k) s =
      checkNot (decide (2 ^ k.toNat ≤ r.toNat)) .magTooWide s (.next (s.respond (.value ⟨r, k.setWidth 4⟩))) :=
  (checkWidth_of_inRange h1 h8).trans (by rw [resultValue_byte])

/-- Settles O1: no set bit at a position of K or above is a number below 2^K. -/
theorem newValidatesWidthThenMagnitude : Obligations.NewValidatesWidthThenMagnitude := by
  refine ⟨fun w h => (decode_eq_ok_iff _ _).2 ⟨h, rfl, rfl, rfl, rfl⟩, fun r k s => ⟨fun h1 h8 hr => ?_, ?_, ?_⟩⟩
  · have hlt : r.toNat < 2 ^ k.toNat := (no_bit_from_iff r _).1 hr
    exact (exec_new_of_inRange h1 h8).trans (checkNot_of_good (decide_eq_false hlt.not_ge))
  · exact checkWidth_of_outside
  · rintro h1 h8 ⟨i, hi, hbit⟩
    have hge : 2 ^ k.toNat ≤ r.toNat := by
      by_contra hlt
      simp [(no_bit_from_iff r _).2 (Nat.lt_of_not_le hlt) i hi] at hbit
    exact (exec_new_of_inRange h1 h8).trans (checkNot_of_bad (decide_eq_true hge))

/-- The magnitude of ONES of width `w`, which is TRUNC's mask (R102, R103). -/
def onesByte (w : Nat) : Byte := BitVec.ofNat 8 (onesOf w)

theorem getLsbD_onesByte {w i : Nat} (hi : i < 8) : (onesByte w).getLsbD i = decide (i < w) := by
  rw [onesByte, BitVec.getLsbD_ofNat, testBit_onesOf, decide_eq_true hi, Bool.true_and]

/-- The mask keeps a magnitude that fits the width (R25). -/
theorem and_onesByte_of_lt {m : Byte} {w : Nat} (h : m.toNat < 2 ^ w) : m &&& onesByte w = m := by
  calc m &&& onesByte w
    _ = BitVec.ofNat 8 (m.toNat &&& onesOf w) := by
        rw [BitVec.ofNat_and, BitVec.ofNat_toNat, BitVec.setWidth_eq, onesByte]
    _ = m := by rw [and_onesOf, Nat.mod_eq_of_lt h, BitVec.ofNat_toNat, BitVec.setWidth_eq]

theorem exec_trunc_of_inRange (h1 : 1 ≤ k.toNat) (h8 : k.toNat ≤ 8) :
    exec (.trunc r k) s = .next (s.respond (.value ⟨r &&& onesByte k.toNat, k.setWidth 4⟩)) :=
  (checkWidth_of_inRange h1 h8).trans <| by
    rw [resultValue_width, BitVec.ofNat_and, BitVec.ofNat_toNat, BitVec.setWidth_eq, onesByte]

theorem exec_ones_of_inRange (h1 : 1 ≤ k.toNat) (h8 : k.toNat ≤ 8) :
    exec (.ones k) s = .next (s.respond (.value ⟨onesByte k.toNat, k.setWidth 4⟩)) :=
  (checkWidth_of_inRange h1 h8).trans (resultValue_width _ _ _)

/-- Settles O2: TRUNC masks R with ones(K). -/
theorem truncClearsBitsFromTheWidthUp : Obligations.TruncClearsBitsFromTheWidthUp := by
  refine ⟨fun w h => (decode_eq_ok_iff _ _).2 ⟨h, rfl, rfl, rfl, rfl⟩, fun r k s => ⟨fun h1 h8 => ?_, ?_⟩⟩
  · refine ⟨r &&& onesByte k.toNat, exec_trunc_of_inRange h1 h8, fun i hi => ?_⟩
    rw [BitVec.getLsbD_and, getLsbD_onesByte hi, Bool.and_comm]
  · exact checkWidth_of_outside

/-- Settles O3. -/
theorem onesSetsAllBitsOfTheWidth : Obligations.OnesSetsAllBitsOfTheWidth :=
  ⟨fun _ h => (decode_eq_ok_iff _ _).2 ⟨h, rfl, rfl, rfl, rfl⟩, fun _ _ => ⟨exec_ones_of_inRange, checkWidth_of_outside⟩⟩

/-! ### TRUNC against ZEXT and ANDR (R102, R122, R144) -/

theorem exec_zext_of_le (ha : a.valid = true) (hk : a.w ≤ k.toNat) (h8 : k.toNat ≤ 8) :
    exec (.zext a k) s = .next (s.respond (.value ⟨a.mag, k.setWidth 4⟩)) := by
  obtain ⟨h1, -, -⟩ := a.valid_iff.1 ha
  calc exec (.zext a k) s
    _ = checkWidth k s (checkNot (decide (k.toNat < a.w)) .narrowingExtend s (resultValue a.m k.toNat s)) :=
        checkA_of_valid ha
    _ = checkNot (decide (k.toNat < a.w)) .narrowingExtend s (resultValue a.m k.toNat s) :=
        checkWidth_of_inRange (h1.trans hk) h8
    _ = resultValue a.m k.toNat s := checkNot_of_good (decide_eq_false hk.not_gt)
    _ = .next (s.respond (.value ⟨a.mag, k.setWidth 4⟩)) := resultValue_byte _ _ _

theorem exec_andr_of_valid (ha : a.valid = true) :
    exec (.andr a r) s = .next (s.respond (.value ⟨a.mag &&& r, a.width⟩)) :=
  (checkA_of_valid ha).trans <| by simp [resultValue, Value.m, Value.w, BitVec.ofNat_and]

/-- TRUNC of a valid value's magnitude to its own width gives the value back. -/
theorem exec_trunc_own_width (ha : a.valid = true) :
    exec (.trunc a.mag (a.width.setWidth 8)) s = .next (s.respond (.value a)) := by
  obtain ⟨h1, h8, hm⟩ := a.valid_iff.1 ha
  have hk : (a.width.setWidth 8).toNat = a.w := BitVec.toNat_setWidth_of_le (by decide)
  rw [exec_trunc_of_inRange (hk ▸ h1) (hk ▸ h8), hk, and_onesByte_of_lt hm,
    BitVec.setWidth_setWidth_of_le _ (by decide), BitVec.setWidth_eq]

/-- Settles O23: ZEXT keeps the magnitude, and TRUNC's mask of A's own width keeps it again. -/
theorem truncUndoesZext : Obligations.TruncUndoesZext := by
  intro a k s ha hk h8
  have hz := exec_zext_of_le (s := s) ha hk h8
  exact ⟨_, hz, exec_givesValid _ s _ _ hz rfl, exec_trunc_own_width ha⟩

/-- Settles O56: ONES answers TRUNC's mask, and ANDR applies it. -/
theorem andrWithOnesMasksAsTrunc : Obligations.AndrWithOnesMasksAsTrunc := by
  refine ⟨fun k s h1 h8 => ?_, fun a r s ha => ?_, fun a k s ha h1 h8 => ?_⟩
  · have ho := exec_ones_of_inRange (s := s) h1 h8
    exact ⟨_, exec_givesValid _ s _ _ ho rfl, rfl, ho, fun i => getLsbD_onesByte⟩
  · have hv := exec_andr_of_valid (r := r) (s := s) ha
    exact ⟨_, exec_givesValid _ s _ _ hv rfl, rfl, hv, fun i _ => BitVec.getLsbD_and⟩
  · exact ⟨_, _, _, exec_ones_of_inRange h1 h8, exec_andr_of_valid ha, exec_trunc_of_inRange h1 h8, rfl, rfl⟩

/-! ### Comparison (R104) -/

/-- The place of a value in CMP's order: the magnitude decides first, then the width. -/
def orderKey (v : Value) : ℕ ×ₗ ℕ := toLex (v.m, v.w)

theorem orderKey_lt_iff : orderKey a < orderKey b ↔ a.mag < b.mag ∨ (a.mag = b.mag ∧ a.width < b.width) := by
  rw [orderKey, orderKey, Prod.Lex.toLex_lt_toLex, BitVec.toNat_inj]
  rfl

theorem orderKey_injective : Function.Injective orderKey := by
  intro a b h
  obtain ⟨hm, hw⟩ := Prod.mk.inj (toLex.injective h)
  rw [← a.eta_ofNat, ← b.eta_ofNat, hm, hw]

theorem orderCode_eq : orderCode a.m a.w b.m b.w =
    if orderKey a < orderKey b then 1 else if orderKey a = orderKey b then 2 else 4 := by
  simp only [orderCode, orderKey, Prod.Lex.toLex_lt_toLex, toLex_inj, Prod.mk.injEq]

theorem exec_cmp_of_valid (ha : a.valid = true) (hb : b.valid = true) :
    exec (.cmp a b) s = .next (s.respond (.raw (BitVec.ofNat 64 (orderCode a.m a.w b.m b.w)))) :=
  (checkA_of_valid ha).trans (checkB_of_valid hb)

section
variable (ha : a.valid = true) (hb : b.valid = true)
include ha hb

/-- CMP's three answers, by the places of its operands in the order. -/
theorem exec_cmp_eq_raw_iff {x : Raw} : exec (.cmp a b) s = .next (s.respond (.raw x)) ↔
    (orderKey a < orderKey b ∧ x = 1) ∨ (orderKey a = orderKey b ∧ x = 2) ∨ (orderKey b < orderKey a ∧ x = 4) := by
  rw [exec_cmp_of_valid ha hb, Host.Outcome.next.injEq, State.respond_inj, Response.raw.injEq, orderCode_eq, eq_comm]
  rcases lt_trichotomy (orderKey a) (orderKey b) with h | h | h
  · simp [h, h.ne, h.not_gt]
  · simp [h]
  · simp [h, h.ne', h.not_gt]

theorem exec_cmp_eq_one_iff : exec (.cmp a b) s = .next (s.respond (.raw 1)) ↔ orderKey a < orderKey b := by
  simp [exec_cmp_eq_raw_iff ha hb]

theorem exec_cmp_eq_two_iff : exec (.cmp a b) s = .next (s.respond (.raw 2)) ↔ a = b := by
  simp [exec_cmp_eq_raw_iff ha hb, orderKey_injective.eq_iff]

theorem exec_cmp_eq_four_iff : exec (.cmp a b) s = .next (s.respond (.raw 4)) ↔ orderKey b < orderKey a := by
  simp [exec_cmp_eq_raw_iff ha hb]

end

/-- Settles O4. -/
theorem cmpOrdersByMagnitudeThenWidth : Obligations.CmpOrdersByMagnitudeThenWidth := by
  refine ⟨fun w h => (decode_eq_ok_iff _ _).2 ⟨h, rfl, rfl, rfl, rfl⟩, fun a b s => ⟨?_, ?_, ?_, ?_, ?_⟩⟩
  · exact fun ha hb h => (exec_cmp_eq_one_iff ha hb).2 (orderKey_lt_iff.2 h)
  · exact fun ha hb => (exec_cmp_eq_two_iff ha hb).2
  · exact fun ha hb h => (exec_cmp_eq_four_iff ha hb).2 (orderKey_lt_iff.2 (h.imp_right (.imp_left Eq.symm)))
  · exact checkA_of_invalid
  · exact fun ha hb => (checkA_of_valid ha).trans (checkB_of_invalid hb)

/-- Settles O21: CMP's order is the lexicographic order of the pairs (magnitude, width). -/
theorem cmpIsATotalOrder : Obligations.CmpIsATotalOrder := by
  intro a b c s ha hb hc
  refine ⟨exec_cmp_eq_two_iff ha hb, ?_, fun hab hbc => ?_, ?_⟩
  · exact (exec_cmp_eq_one_iff ha hb).trans (exec_cmp_eq_four_iff hb ha).symm
  · have hlt := ((exec_cmp_eq_one_iff ha hb).1 hab).trans ((exec_cmp_eq_one_iff hb hc).1 hbc)
    exact (exec_cmp_eq_one_iff ha hc).2 hlt
  · rcases lt_trichotomy (orderKey a) (orderKey b) with h | h | h
    · exact ⟨1, .inl rfl, (exec_cmp_eq_one_iff ha hb).2 h⟩
    · exact ⟨2, .inr (.inl rfl), (exec_cmp_eq_two_iff ha hb).2 (orderKey_injective h)⟩
    · exact ⟨4, .inr (.inr rfl), (exec_cmp_eq_four_iff ha hb).2 h⟩

end Sys2Proof.Machine
end

section
/-! PROOFS. Family 41_bitwise: NOT, ANDV, ANDR, OR (R120 to R123). First what each operation answers for valid operands,
then the obligations. -/

namespace Sys2Proof.Machine

variable {a b : Value} {s : State}

/-! ### NOT (R120) -/

/-- NOT8 is the complement of the byte (R9). -/
theorem not8_toNat (m : Byte) : not8 m.toNat = (~~~m).toNat := BitVec.toNat_not.symm

theorem exec_not_of_valid (ha : a.valid = true) :
    exec (.not a) s = .next (s.respond (.value ⟨~~~a.mag &&& onesByte a.w, a.width⟩)) := by
  calc exec (.not a) s
    _ = resultValue (not8 a.m &&& onesOf a.w) a.w s := checkA_of_valid ha
    _ = .next (s.respond (.value ⟨~~~a.mag &&& onesByte a.w, a.width⟩)) := by
        simp only [not8_toNat, resultValue, onesByte, BitVec.ofNat_and, BitVec.ofNat_toNat, BitVec.setWidth_eq]

/-- Complementing twice under one mask is masking. -/
theorem not_not_and_and {n : Nat} (x mask : BitVec n) : ~~~(~~~x &&& mask) &&& mask = x &&& mask := by
  ext i hi
  simp only [BitVec.getElem_and, BitVec.getElem_not]
  cases x[i] <;> cases mask[i] <;> rfl

theorem exec_not_not_of_valid (ha : a.valid = true) : ∃ v : Value,
    exec (.not a) s = .next (s.respond (.value v)) ∧ exec (.not v) s = .next (s.respond (.value a)) := by
  obtain ⟨-, -, hm⟩ := a.valid_iff.1 ha
  have hv := exec_not_of_valid (s := s) ha
  refine ⟨_, hv, (exec_not_of_valid (exec_givesValid _ s _ _ hv rfl)).trans ?_⟩
  rw [not_not_and_and, and_onesByte_of_lt hm]

/-- Settles O5: NOT masks the complemented byte with ones(AW). -/
theorem notComplementsWithinTheWidth : Obligations.NotComplementsWithinTheWidth := by
  refine ⟨fun w h => (decode_eq_ok_iff _ _).2 ⟨h, rfl, rfl, rfl, rfl⟩, fun a s => ⟨fun ha => ?_, checkA_of_invalid⟩⟩
  refine ⟨~~~a.mag &&& onesByte a.w, exec_not_of_valid ha, fun i hi => ?_⟩
  rw [BitVec.getLsbD_and, getLsbD_onesByte hi, BitVec.getLsbD_not, decide_eq_true hi, Bool.true_and, Bool.and_comm]

/-! ### ANDV, ANDR, OR (R121 to R123) -/

theorem ofNat_min_toNat {n : Nat} (x y : BitVec n) :
    BitVec.ofNat n (min x.toNat y.toNat) = if x ≤ y then x else y := by
  simp only [Nat.min_def, ← BitVec.le_def, apply_ite (BitVec.ofNat n), BitVec.ofNat_toNat, BitVec.setWidth_eq]

theorem ofNat_max_toNat {n : Nat} (x y : BitVec n) :
    BitVec.ofNat n (max x.toNat y.toNat) = if x ≤ y then y else x := by
  simp only [Nat.max_def, ← BitVec.le_def, apply_ite (BitVec.ofNat n), BitVec.ofNat_toNat, BitVec.setWidth_eq]

theorem exec_andv_of_valid (ha : a.valid = true) (hb : b.valid = true) :
    exec (.andv a b) s = resultValue (a.m &&& b.m) (min a.w b.w) s :=
  (checkA_of_valid ha).trans (checkB_of_valid hb)

theorem exec_or_of_valid (ha : a.valid = true) (hb : b.valid = true) :
    exec (.or a b) s = resultValue (a.m ||| b.m) (max a.w b.w) s :=
  (checkA_of_valid ha).trans (checkB_of_valid hb)

/-- Settles O6: the minimum of two 4-bit numbers is again one of the two fields. -/
theorem andvTakesTheNarrowerWidth : Obligations.AndvTakesTheNarrowerWidth := by
  refine ⟨fun w h => (decode_eq_ok_iff _ _).2 ⟨h, rfl, rfl, rfl, rfl⟩, fun a b s => ⟨fun ha hb => ?_, ?_, ?_⟩⟩
  · simp only [exec_andv_of_valid ha hb, resultValue, State.respond, ofNat_min_toNat, BitVec.ofNat_and,
      BitVec.ofNat_toNat, BitVec.setWidth_eq]
  · exact checkA_of_invalid
  · exact fun ha hb => (checkA_of_valid ha).trans (checkB_of_invalid hb)

/-- Settles O7. -/
theorem andrKeepsTheOwnWidth : Obligations.AndrKeepsTheOwnWidth :=
  ⟨fun _ h => (decode_eq_ok_iff _ _).2 ⟨h, rfl, rfl, rfl, rfl⟩, fun _ _ _ => ⟨exec_andr_of_valid, checkA_of_invalid⟩⟩

/-- Settles O8: the maximum of two 4-bit numbers is again one of the two fields. -/
theorem orTakesTheWiderWidth : Obligations.OrTakesTheWiderWidth := by
  refine ⟨fun w h => (decode_eq_ok_iff _ _).2 ⟨h, rfl, rfl, rfl, rfl⟩, fun a b s => ⟨fun ha hb => ?_, ?_, ?_⟩⟩
  · simp only [exec_or_of_valid ha hb, resultValue, State.respond, ofNat_max_toNat, BitVec.ofNat_or,
      BitVec.ofNat_toNat, BitVec.setWidth_eq]
  · exact checkA_of_invalid
  · exact fun ha hb => (checkA_of_valid ha).trans (checkB_of_invalid hb)

/-- Settles O22: A's magnitude fits the mask NOT applies; AND, OR, minimum and maximum are commutative. -/
theorem bitwiseLaws : Obligations.BitwiseLaws := by
  refine ⟨fun a s => exec_not_not_of_valid, fun a b s ha hb => ⟨?_, ?_⟩⟩
  · rw [exec_andv_of_valid ha hb, exec_andv_of_valid hb ha, Nat.and_comm, Nat.min_comm]
  · rw [exec_or_of_valid ha hb, exec_or_of_valid hb ha, Nat.or_comm, Nat.max_comm]

end Sys2Proof.Machine
end

section
/-! PROOFS. Family 42_sub_extend: SUB, SEXT, ZEXT (R140 to R144). First the W-bit pattern of a value, whose
two's-complement reading is `Value.signed`, then what the magnitudes of SUB and SEXT are as numbers and patterns, then what
each operation answers, and the obligations. -/

namespace Sys2Proof

/-! ### A value as a pattern of its width (R9, R10) -/

/-- The W-bit pattern of a value. -/
def Value.pattern (v : Value) : BitVec v.w := v.mag.setWidth v.w

variable {v : Value}

theorem Value.toNat_pattern (h : v.valid = true) : v.pattern.toNat = v.m := by
  obtain ⟨-, -, hm⟩ := v.valid_iff.1 h
  rw [Value.pattern, BitVec.toNat_setWidth, Nat.mod_eq_of_lt hm]

theorem Value.msb_pattern (h : v.valid = true) : v.pattern.msb = v.mag.getLsbD (v.w - 1) := by
  obtain ⟨h1, -, -⟩ := v.valid_iff.1 h
  rw [Value.pattern, BitVec.msb_setWidth, decide_eq_true (Nat.lt_of_succ_le h1), Bool.true_and]

theorem Value.toInt_pattern (h : v.valid = true) : v.pattern.toInt = v.signed := by
  rw [BitVec.toInt_eq_msb_cond, Value.msb_pattern h, Value.toNat_pattern h, Value.signed, Nat.cast_pow, Nat.cast_two]

/-- The two's-complement reading is the magnitude, brought modulo 2^W into the range around 0. -/
theorem Value.signed_eq_bmod (h : v.valid = true) : v.signed = (v.m : Int).bmod (2 ^ v.w) := by
  rw [← Value.toInt_pattern h, BitVec.toInt_eq_toNat_bmod, Value.toNat_pattern h]

theorem Value.signed_range (h : v.valid = true) : -2 ^ (v.w - 1) ≤ v.signed ∧ v.signed < 2 ^ (v.w - 1) := by
  rw [← Value.toInt_pattern h]
  exact ⟨v.pattern.le_toInt, BitVec.toInt_lt⟩

/-- A number in the two's-complement range of a width of 1 or more is its own representative modulo 2^W. -/
theorem bmod_two_pow_eq_self {x : Int} {w : Nat} (h1 : 1 ≤ w) (hlo : -2 ^ (w - 1) ≤ x) (hhi : x < 2 ^ (w - 1)) :
    x.bmod (2 ^ w) = x := by
  obtain ⟨n, rfl⟩ := Nat.exists_eq_add_of_le' h1
  rw [Nat.add_sub_cancel] at hlo hhi
  apply Int.bmod_eq_of_le_mul_two <;> push_cast [pow_succ] <;> omega

/-- The difference of two numbers in the two's-complement range of a width wraps at most once. -/
theorem bmod_two_pow_sub {x y : Int} {w : Nat} (h1 : 1 ≤ w) (hx : -2 ^ (w - 1) ≤ x ∧ x < 2 ^ (w - 1))
    (hy : -2 ^ (w - 1) ≤ y ∧ y < 2 ^ (w - 1)) :
    (-2 ^ (w - 1) ≤ x - y → x - y ≤ 2 ^ (w - 1) - 1 → (x - y).bmod (2 ^ w) = x - y) ∧
    (x - y < -2 ^ (w - 1) → (x - y).bmod (2 ^ w) = x - y + 2 ^ w) ∧
    (2 ^ (w - 1) - 1 < x - y → (x - y).bmod (2 ^ w) = x - y - 2 ^ w) := by
  have hpow : (2 : Int) ^ w = 2 * 2 ^ (w - 1) := (mul_pow_sub_one (by omega) 2).symm
  refine ⟨fun hlo hhi => ?_, fun hlo => ?_, fun hhi => ?_⟩
  · exact bmod_two_pow_eq_self h1 hlo (by omega)
  · rw [← bmod_two_pow_eq_self (x := x - y + 2 ^ w) h1 (by omega) (by omega)]
    exact_mod_cast (Int.add_bmod_right (x - y) (2 ^ w)).symm
  · rw [← bmod_two_pow_eq_self (x := x - y - 2 ^ w) h1 (by omega) (by omega)]
    exact_mod_cast (Int.sub_bmod_right (x - y) (2 ^ w)).symm

namespace Machine

variable {a b : Value} {k : Byte} {s : State} {rest : Result}

/-! ### The magnitudes of SUB and SEXT (R140 to R143) -/

/-- 2^W divides 256, so the 8-bit difference masked to W bits is the difference modulo 2^W (R141). -/
theorem wrapSub8_and_onesOf {x y w : Nat} (hy : y ≤ 2 ^ 8) (hw : w ≤ 8) :
    ((wrapSub8 x y &&& onesOf w : Nat) : Int) = ((x : Int) - y) % 2 ^ w := by
  have hcast : ((x + 2 ^ 8 - y : Nat) : Int) = (x : Int) - y + 2 ^ 8 := by omega
  calc ((wrapSub8 x y &&& onesOf w : Nat) : Int)
    _ = ((x + 2 ^ 8 - y : Nat) : Int) % 2 ^ w := by
        rw [and_onesOf, wrapSub8, Nat.mod_mod_of_dvd _ (Nat.pow_dvd_pow 2 hw)]; norm_cast
    _ = ((x : Int) - y) % 2 ^ w := by
        obtain ⟨c, hc⟩ : (2 : Int) ^ w ∣ 2 ^ 8 := pow_dvd_pow 2 hw
        rw [hcast, hc, Int.add_mul_emod_self_left]

/-- Flipping bit `n` adds 1 modulo 2 to the quotient by 2^n and keeps the remainder. -/
theorem xor_two_pow (m n : Nat) : m ^^^ 2 ^ n = 2 ^ n * (m / 2 ^ n ^^^ 1) + m % 2 ^ n := by
  have hdiv : (m ^^^ 2 ^ n) / 2 ^ n = m / 2 ^ n ^^^ 1 := by
    rw [Nat.xor_div_two_pow, Nat.div_self (Nat.two_pow_pos n)]
  have hmod : (m ^^^ 2 ^ n) % 2 ^ n = m % 2 ^ n := by
    rw [Nat.xor_mod_two_pow, Nat.mod_self, Nat.xor_zero]
  rw [← hdiv, ← hmod, Nat.div_add_mod]

/-- Flipping the sign bit and subtracting its mask reads the magnitude as two's complement (R142). -/
theorem xor_signMask_sub (ha : a.valid = true) :
    ((a.m ^^^ signMask a.w : Nat) : Int) - signMask a.w = a.signed := by
  obtain ⟨h1, -, hm⟩ := a.valid_iff.1 ha
  obtain ⟨n, hn⟩ := Nat.exists_eq_add_of_le' h1
  have hbit : a.mag.getLsbD n = decide (a.m / 2 ^ n % 2 = 1) := Nat.testBit_eq_decide_div_mod_eq
  have hsplit : 2 ^ n * (a.m / 2 ^ n) + a.m % 2 ^ n = a.m := Nat.div_add_mod _ _
  have hq : a.m / 2 ^ n < 2 := Nat.div_lt_of_lt_mul (by rwa [← pow_succ, ← hn])
  rw [Value.signed, hn, signMask, Nat.add_sub_cancel, Nat.one_shiftLeft, xor_two_pow, hbit, ← hsplit]
  generalize a.m / 2 ^ n = q at *
  interval_cases q
  · simp
  · simp [pow_succ]
    ring

theorem signMask_le {w : Nat} (hw : w ≤ 8) : signMask w ≤ 2 ^ 8 := by
  rw [signMask, Nat.one_shiftLeft]
  exact Nat.pow_le_pow_right (by decide) (by omega)

/-- SEXT's magnitude is the sign extension of A's pattern to K bits (R143). -/
theorem sextMag_eq (ha : a.valid = true) {n : Nat} (hn : n ≤ 8) :
    sextMag a.m a.w n = (a.pattern.signExtend n).toNat := by
  obtain ⟨-, h8, -⟩ := a.valid_iff.1 ha
  have hmag : (sextMag a.m a.w n : Int) = a.signed % 2 ^ n := by
    rw [sextMag, wrapSub8_and_onesOf (signMask_le h8) hn, xor_signMask_sub ha]
  rw [BitVec.signExtend, BitVec.toNat_ofInt, Value.toInt_pattern ha, Nat.cast_pow, Nat.cast_two, ← hmag,
    Int.toNat_natCast]

/-- A magnitude masked to a width of at most 8 is not cut by its field. -/
theorem toNat_ofNat_and_onesOf (x : Nat) {w : Nat} (hw : w ≤ 8) :
    (BitVec.ofNat 8 (x &&& onesOf w)).toNat = x &&& onesOf w :=
  Nat.mod_eq_of_lt ((and_onesOf_lt x w).trans_le (Nat.pow_le_pow_right (by decide) hw))

/-! ### SUB (R140, R141) -/

/-- SUB's magnitude as a byte. -/
def subByte (a b : Value) : Byte := BitVec.ofNat 8 (subMag a.m b.m a.w)

theorem toNat_subByte (ha : a.valid = true) :
    ((subByte a b).toNat : Int) = ((a.m : Int) - b.m) % 2 ^ a.w := by
  obtain ⟨-, h8, -⟩ := a.valid_iff.1 ha
  rw [subByte, subMag, toNat_ofNat_and_onesOf _ h8, wrapSub8_and_onesOf b.m_lt.le h8]

theorem exec_sub_of_valid (ha : a.valid = true) (hb : b.valid = true) :
    exec (.sub a b) s = checkNot (decide (a.w ≠ b.w)) .widthMismatch s
      (.next (s.respond (.value ⟨subByte a b, a.width⟩))) := by
  calc exec (.sub a b) s
    _ = checkNot (decide (a.w ≠ b.w)) .widthMismatch s (resultValue (subMag a.m b.m a.w) a.w s) :=
        (checkA_of_valid ha).trans (checkB_of_valid hb)
    _ = checkNot (decide (a.w ≠ b.w)) .widthMismatch s (.next (s.respond (.value ⟨subByte a b, a.width⟩))) := by
        rw [resultValue, subByte, BitVec.ofNat_toNat, BitVec.setWidth_eq]

theorem exec_sub_of_width_eq (ha : a.valid = true) (hb : b.valid = true) (hw : a.width = b.width) :
    exec (.sub a b) s = .next (s.respond (.value ⟨subByte a b, a.width⟩)) :=
  (exec_sub_of_valid ha hb).trans (checkNot_of_good (by simp [Value.w, hw]))

theorem exec_sub_of_width_ne (ha : a.valid = true) (hb : b.valid = true) (hw : a.width ≠ b.width) :
    exec (.sub a b) s = raise .widthMismatch s :=
  (exec_sub_of_valid ha hb).trans (checkNot_of_bad (by simpa [Value.w, BitVec.toNat_inj] using hw))

/-- Settles O9: masking the 8-bit difference to W bits reduces it modulo 2^W. -/
theorem subWrapsModuloTheWidth : Obligations.SubWrapsModuloTheWidth := by
  refine ⟨fun w h => (decode_eq_ok_iff _ _).2 ⟨h, rfl, rfl, rfl, rfl⟩, fun a b s => ⟨?_, ?_, ?_, ?_⟩⟩
  · exact fun ha hb hw => ⟨subByte a b, exec_sub_of_width_eq ha hb hw, toNat_subByte ha⟩
  · exact checkA_of_invalid
  · exact fun ha hb => (checkA_of_valid ha).trans (checkB_of_invalid hb)
  · exact exec_sub_of_width_ne

/-- SUB's result in two's complement is the difference of the operands so read, modulo 2^W (R141). -/
theorem signed_sub (ha : a.valid = true) (hb : b.valid = true) (hw : a.width = b.width) :
    (⟨subByte a b, a.width⟩ : Value).signed = (a.signed - b.signed).bmod (2 ^ a.w) := by
  have hv := exec_givesValid _ State.reset _ _ (exec_sub_of_width_eq ha hb hw) rfl
  have hbw : b.w = a.w := congrArg BitVec.toNat hw.symm
  calc (⟨subByte a b, a.width⟩ : Value).signed
    _ = (((subByte a b).toNat : Int)).bmod (2 ^ a.w) := Value.signed_eq_bmod hv
    _ = ((a.m : Int) - b.m).bmod (2 ^ a.w) := by
        rw [toNat_subByte ha]
        exact_mod_cast Int.emod_bmod _ (2 ^ a.w)
    _ = (a.signed - b.signed).bmod (2 ^ a.w) := by
        rw [Int.sub_bmod, Value.signed_eq_bmod ha, Value.signed_eq_bmod hb, hbw]

/-- Settles O10: of the three numbers, the one in the two's-complement range of W is congruent to the difference modulo
2^W, so it is the result. -/
theorem subIsTwosComplementSubtraction : Obligations.SubIsTwosComplementSubtraction := by
  intro a b s ha hb hw
  refine ⟨⟨subByte a b, a.width⟩, exec_sub_of_width_eq ha hb hw, rfl, toNat_subByte ha, ?_⟩
  rw [signed_sub ha hb hw]
  obtain ⟨h1, -, -⟩ := a.valid_iff.1 ha
  have hb' := Value.signed_range hb
  rw [show b.w = a.w from congrArg BitVec.toNat hw.symm] at hb'
  exact bmod_two_pow_sub h1 (Value.signed_range ha) hb'

/-! ### SEXT and ZEXT (R142 to R144) -/

theorem checkExtend_of_le (ha : a.valid = true) (hk : a.w ≤ k.toNat) (h8 : k.toNat ≤ 8) :
    checkA a s (checkWidth k s (checkNot (decide (k.toNat < a.w)) .narrowingExtend s rest)) = rest := by
  obtain ⟨h1, -, -⟩ := a.valid_iff.1 ha
  rw [checkA_of_valid ha, checkWidth_of_inRange (h1.trans hk) h8, checkNot_of_good (decide_eq_false hk.not_gt)]

theorem checkExtend_of_lt (ha : a.valid = true) (h1 : 1 ≤ k.toNat) (hk : k.toNat < a.w) :
    checkA a s (checkWidth k s (checkNot (decide (k.toNat < a.w)) .narrowingExtend s rest)) =
      raise .narrowingExtend s := by
  obtain ⟨-, h8, -⟩ := a.valid_iff.1 ha
  rw [checkA_of_valid ha, checkWidth_of_inRange h1 (hk.le.trans h8), checkNot_of_bad (decide_eq_true hk)]

/-- SEXT's magnitude as a byte. -/
def sextByte (a : Value) (k : Nat) : Byte := BitVec.ofNat 8 (sextMag a.m a.w k)

theorem toNat_sextByte (ha : a.valid = true) {n : Nat} (hn : n ≤ 8) :
    (sextByte a n).toNat = (a.pattern.signExtend n).toNat := by
  rw [← sextMag_eq ha hn]
  exact toNat_ofNat_and_onesOf _ hn

theorem getLsbD_sextByte (ha : a.valid = true) {n : Nat} (hn : n ≤ 8) (i : Nat) :
    (sextByte a n).getLsbD i =
      (decide (i < n) && if i < a.w then a.mag.getLsbD i else a.mag.getLsbD (a.w - 1)) := by
  calc (sextByte a n).getLsbD i
    _ = (a.pattern.signExtend n).getLsbD i := by
        rw [← BitVec.testBit_toNat, toNat_sextByte ha hn, BitVec.testBit_toNat]
    _ = (decide (i < n) && if i < a.w then a.pattern.getLsbD i else a.mag.getLsbD (a.w - 1)) := by
        rw [BitVec.getLsbD_signExtend, Value.msb_pattern ha]
    _ = (decide (i < n) && if i < a.w then a.mag.getLsbD i else a.mag.getLsbD (a.w - 1)) := by
        rw [← BitVec.testBit_toNat a.pattern, Value.toNat_pattern ha, BitVec.testBit_toNat]

theorem exec_sext_of_le (ha : a.valid = true) (hk : a.w ≤ k.toNat) (h8 : k.toNat ≤ 8) :
    exec (.sext a k) s = .next (s.respond (.value ⟨sextByte a k.toNat, k.setWidth 4⟩)) :=
  (checkExtend_of_le ha hk h8).trans (resultValue_width _ _ _)

/-- SEXT's closed form: a set sign bit adds the bits AW to K - 1 to A's magnitude (R143). -/
theorem toNat_sextByte_eq (ha : a.valid = true) {n : Nat} (hn : a.w ≤ n) (h8 : n ≤ 8) :
    (sextByte a n).toNat = a.m + if a.mag.getLsbD (a.w - 1) then 2 ^ n - 2 ^ a.w else 0 := by
  rw [toNat_sextByte ha h8, BitVec.toNat_signExtend, Value.msb_pattern ha, BitVec.toNat_setWidth_of_le hn,
    Value.toNat_pattern ha]

/-- SEXT keeps the two's-complement reading (R143). -/
theorem signed_sext (ha : a.valid = true) (hk : a.w ≤ k.toNat) (h8 : k.toNat ≤ 8) :
    (⟨sextByte a k.toNat, k.setWidth 4⟩ : Value).signed = a.signed := by
  have hv := exec_givesValid _ State.reset _ _ (exec_sext_of_le ha hk h8) rfl
  have hw : (k.setWidth 4).toNat = k.toNat := by rw [BitVec.toNat_setWidth, Nat.mod_eq_of_lt (by omega)]
  calc (⟨sextByte a k.toNat, k.setWidth 4⟩ : Value).signed
    _ = ((sextByte a k.toNat).toNat : Int).bmod (2 ^ (k.setWidth 4).toNat) := Value.signed_eq_bmod hv
    _ = (a.pattern.signExtend k.toNat).toInt := by rw [hw, toNat_sextByte ha h8, ← BitVec.toInt_eq_toNat_bmod]
    _ = a.signed := by rw [BitVec.toInt_signExtend_of_le hk, Value.toInt_pattern ha]

/-- Settles O11: the bits of SEXT's magnitude are those of the sign extension of A's pattern. -/
theorem sextFillsWithTheSignBit : Obligations.SextFillsWithTheSignBit := by
  refine ⟨fun w h => (decode_eq_ok_iff _ _).2 ⟨h, rfl, rfl, rfl, rfl⟩, fun a k s => ⟨?_, ?_, ?_, ?_⟩⟩
  · exact fun ha hk h8 => ⟨_, exec_sext_of_le ha hk h8, fun i _ => getLsbD_sextByte ha h8 i⟩
  · exact checkA_of_invalid
  · exact fun ha hk => (checkA_of_valid ha).trans (checkWidth_of_outside hk)
  · exact checkExtend_of_lt

/-- Settles O12: the number of a sign-extended pattern, and its two's-complement reading, which is A's. -/
theorem sextHasTheClosedForm : Obligations.SextHasTheClosedForm := by
  intro a k s ha hk h8
  have he := exec_sext_of_le (s := s) ha hk h8
  refine ⟨_, he, rfl, fun hclear => ?_, fun hset => ?_, ?_⟩
  · exact BitVec.eq_of_toNat_eq (by simp [toNat_sextByte_eq ha hk h8, hclear])
  · simp [toNat_sextByte_eq ha hk h8, hset]
  · exact signed_sext ha hk h8

/-- Settles O13. -/
theorem zextKeepsTheMagnitude : Obligations.ZextKeepsTheMagnitude := by
  refine ⟨fun w h => (decode_eq_ok_iff _ _).2 ⟨h, rfl, rfl, rfl, rfl⟩, fun a k s => ⟨?_, ?_, ?_, ?_⟩⟩
  · exact exec_zext_of_le
  · exact checkA_of_invalid
  · exact fun ha hk => (checkA_of_valid ha).trans (checkWidth_of_outside hk)
  · exact checkExtend_of_lt

end Machine
end Sys2Proof
end

section
/-! PROOFS. Family 43_field: CONCAT, WIDTH, HSB, ROTR (R160 to R164). CONCAT and ROTR are appending and rotating the
operands' W-bit patterns (`Value.pattern`); first that, then what each operation answers, and the obligations. -/

namespace Sys2Proof

/-! ### Bits of patterns -/

/-- A valid value has no bits above its pattern, so the two have the same bits everywhere. -/
theorem Value.getLsbD_pattern {v : Value} (h : v.valid = true) (i : Nat) : v.pattern.getLsbD i = v.mag.getLsbD i := by
  rw [← BitVec.testBit_toNat, Value.toNat_pattern h, BitVec.testBit_toNat]

/-- Bit i of a right rotation is bit i + r of the pattern, counted modulo its width. -/
theorem getLsbD_rotateRight_eq_mod {w : Nat} (x : BitVec w) (r i : Nat) :
    (x.rotateRight r).getLsbD i = (decide (i < w) && x.getLsbD ((i + r % w) % w)) := by
  by_cases hi : i < w
  · have ha : r % w < w := Nat.mod_lt _ (by omega)
    rw [BitVec.getLsbD_rotateRight, Bool.cond_decide, decide_eq_true hi, Bool.true_and, Bool.true_and]
    generalize r % w = a at ha ⊢
    split_ifs with h
    · rw [Nat.mod_eq_of_lt (by omega : i + a < w), Nat.add_comm]
    · have hmod : (i + a) % w = i - (w - a) := by
        rw [Nat.mod_eq_sub_mod (by omega), Nat.mod_eq_of_lt (by omega)]
        omega
      rw [hmod]
  · rw [decide_eq_false hi, Bool.false_and, BitVec.getLsbD_of_ge _ _ (by omega)]

namespace Machine

variable {a b : Value} {r : Byte} {s : State}

/-! ### CONCAT (R160) -/

/-- CONCAT's magnitude as a byte: A's pattern above B's. -/
def concatByte (a b : Value) : Byte := (a.pattern ++ b.pattern).setWidth 8

theorem ofNat_concat (ha : a.valid = true) (hb : b.valid = true) :
    BitVec.ofNat 8 (a.m <<< b.w ||| b.m) = concatByte a b := by
  rw [concatByte, ← BitVec.ofNat_toNat, BitVec.toNat_append, Value.toNat_pattern ha, Value.toNat_pattern hb]

theorem getLsbD_concatByte (ha : a.valid = true) (hb : b.valid = true) {i : Nat} (hi : i < 8) :
    (concatByte a b).getLsbD i = if i < b.w then b.mag.getLsbD i else a.mag.getLsbD (i - b.w) := by
  rw [concatByte, BitVec.getLsbD_setWidth, decide_eq_true hi, Bool.true_and, BitVec.getLsbD_append,
    Value.getLsbD_pattern ha, Value.getLsbD_pattern hb]

theorem exec_concat_of_valid (ha : a.valid = true) (hb : b.valid = true) :
    exec (.concat a b) s = checkNot (decide (8 < a.w + b.w)) .concatTooWide s
      (.next (s.respond (.value ⟨concatByte a b, a.width + b.width⟩))) := by
  calc exec (.concat a b) s
    _ = checkNot (decide (8 < a.w + b.w)) .concatTooWide s (resultValue (a.m <<< b.w ||| b.m) (a.w + b.w) s) :=
        (checkA_of_valid ha).trans (checkB_of_valid hb)
    _ = checkNot (decide (8 < a.w + b.w)) .concatTooWide s
          (.next (s.respond (.value ⟨concatByte a b, a.width + b.width⟩))) := by
        rw [resultValue, ofNat_concat ha hb, BitVec.ofNat_add, BitVec.ofNat_toNat, BitVec.ofNat_toNat,
          BitVec.setWidth_eq, BitVec.setWidth_eq]

/-- Settles O14: appending the patterns puts A's bits above B's. -/
theorem concatPutsAAboveB : Obligations.ConcatPutsAAboveB := by
  refine ⟨fun w h => (decode_eq_ok_iff _ _).2 ⟨h, rfl, rfl, rfl, rfl⟩, fun a b s => ⟨fun ha hb h8 => ?_, ?_, ?_, ?_⟩⟩
  · exact ⟨concatByte a b, (exec_concat_of_valid ha hb).trans (checkNot_of_good (decide_eq_false h8.not_gt)),
      fun i => getLsbD_concatByte ha hb⟩
  · exact checkA_of_invalid
  · exact fun ha hb => (checkA_of_valid ha).trans (checkB_of_invalid hb)
  · exact fun ha hb h8 => (exec_concat_of_valid ha hb).trans (checkNot_of_bad (decide_eq_true h8))

/-! ### WIDTH and HSB (R161, R162) -/

theorem exec_width_of_valid (ha : a.valid = true) :
    exec (.width a) s = .next (s.respond (.raw (a.width.setWidth 64))) :=
  (checkA_of_valid ha).trans (by rw [resultRaw, BitVec.ofNat_toNat])

/-- Settles O15. -/
theorem widthReturnsTheDeclaredWidth : Obligations.WidthReturnsTheDeclaredWidth :=
  ⟨fun _ h => (decode_eq_ok_iff _ _).2 ⟨h, rfl, rfl, rfl, rfl⟩, fun _ _ => ⟨exec_width_of_valid, checkA_of_invalid⟩⟩

theorem exec_hsb_of_valid (ha : a.valid = true) :
    exec (.hsb a) s = checkNot (decide (a.m = 0)) .hsbZero s (resultRaw (hsbOf a.m) s) := checkA_of_valid ha

/-- A set bit of a valid value lies below its width (R23). -/
theorem lt_width_of_getLsbD (ha : a.valid = true) {i : Nat} (hbit : a.mag.getLsbD i = true) : i < a.w := by
  obtain ⟨-, -, hm⟩ := a.valid_iff.1 ha
  by_contra hi
  simp [(no_bit_from_iff a.mag a.w).2 hm i (Nat.le_of_not_lt hi)] at hbit

/-- Settles O16: the search finds the highest bit set in the byte, and validity puts it below AW. -/
theorem hsbFindsTheHighestSetBit : Obligations.HsbFindsTheHighestSetBit := by
  refine ⟨fun w h => (decode_eq_ok_iff _ _).2 ⟨h, rfl, rfl, rfl, rfl⟩, fun a s => ⟨fun ha h0 => ?_, ?_, fun ha h0 => ?_⟩⟩
  · have hm : a.m ≠ 0 := fun h => h0 (BitVec.eq_of_toNat_eq h)
    obtain ⟨-, hset, hclear⟩ := highestBelow_spec (n := 8) a.m_lt hm
    exact ⟨hsbOf a.m, lt_width_of_getLsbD ha hset,
      (exec_hsb_of_valid ha).trans (checkNot_of_good (decide_eq_false hm)), hset, hclear⟩
  · exact checkA_of_invalid
  · exact (exec_hsb_of_valid ha).trans (checkNot_of_bad (decide_eq_true (congrArg BitVec.toNat h0)))

/-! ### ROTR (R163, R164) -/

/-- The bound of 8 bits is undone by the mask of W bits, and the modulus 8 of the left shift changes it only for W = 8
and the amount 0, where both parts of the rotation are the whole magnitude. -/
theorem rotrMag_eq {m w : Nat} (r : Nat) (h1 : 1 ≤ w) (h8 : w ≤ 8) :
    rotrMag m w r = (m >>> (r % w) ||| m <<< (w - r % w)) % 2 ^ w := by
  have hmask : rotrMag m w r = (m >>> (r % w) ||| m <<< ((w - r % w) % 8)) % 2 ^ w := by
    rw [rotrMag, rotrHigh, and_onesOf, Nat.or_mod_two_pow, Nat.mod_mod_of_dvd _ (Nat.pow_dvd_pow 2 h8),
      ← Nat.or_mod_two_pow]
  rw [hmask]
  by_cases hlt : w - r % w < 8
  · rw [Nat.mod_eq_of_lt hlt]
  · have hw : w = 8 := by omega
    have hr : r % w = 0 := by omega
    rw [hr, hw, Nat.or_mod_two_pow, Nat.or_mod_two_pow]
    simp [Nat.shiftLeft_eq]

/-- The closed form is the right rotation of A's pattern (R164). -/
theorem toNat_rotateRight_pattern (ha : a.valid = true) (r : Nat) :
    (a.pattern.rotateRight r).toNat = (a.m >>> (r % a.w) ||| a.m <<< (a.w - r % a.w)) % 2 ^ a.w := by
  obtain ⟨-, -, hm⟩ := a.valid_iff.1 ha
  rw [BitVec.toNat_rotateRight, Value.toNat_pattern ha, Nat.or_mod_two_pow,
    Nat.mod_eq_of_lt ((Nat.shiftRight_le _ _).trans_lt hm)]

/-- ROTR's magnitude as a byte: A's pattern, rotated. -/
def rotrByte (a : Value) (r : Nat) : Byte := (a.pattern.rotateRight r).setWidth 8

theorem toNat_rotrByte (ha : a.valid = true) (r : Nat) :
    (rotrByte a r).toNat = (a.m >>> (r % a.w) ||| a.m <<< (a.w - r % a.w)) % 2 ^ a.w := by
  obtain ⟨-, h8, -⟩ := a.valid_iff.1 ha
  rw [rotrByte, BitVec.toNat_setWidth_of_le h8, toNat_rotateRight_pattern ha]

theorem getLsbD_rotrByte (ha : a.valid = true) (r : Nat) {i : Nat} (hi : i < 8) :
    (rotrByte a r).getLsbD i = (decide (i < a.w) && a.mag.getLsbD ((i + r % a.w) % a.w)) := by
  rw [rotrByte, BitVec.getLsbD_setWidth, decide_eq_true hi, Bool.true_and, getLsbD_rotateRight_eq_mod,
    Value.getLsbD_pattern ha]

theorem exec_rotr_of_valid (ha : a.valid = true) :
    exec (.rotr a r) s = .next (s.respond (.value ⟨rotrByte a r.toNat, a.width⟩)) := by
  obtain ⟨h1, h8, -⟩ := a.valid_iff.1 ha
  calc exec (.rotr a r) s
    _ = resultValue (rotrMag a.m a.w r.toNat) a.w s := checkA_of_valid ha
    _ = .next (s.respond (.value ⟨rotrByte a r.toNat, a.width⟩)) := by
        rw [resultValue, rotrMag_eq _ h1 h8, ← toNat_rotrByte ha, BitVec.ofNat_toNat, BitVec.ofNat_toNat,
          BitVec.setWidth_eq, BitVec.setWidth_eq]

/-- Settles O17: the number and the bits of A's rotated pattern. -/
theorem rotrRotatesWithinTheWidth : Obligations.RotrRotatesWithinTheWidth := by
  refine ⟨fun w h => (decode_eq_ok_iff _ _).2 ⟨h, rfl, rfl, rfl, rfl⟩, fun a r s => ⟨fun ha => ?_, checkA_of_invalid⟩⟩
  exact ⟨rotrByte a r.toNat, exec_rotr_of_valid ha, toNat_rotrByte ha _, fun i => getLsbD_rotrByte ha _⟩

end Machine
end Sys2Proof
end

section
/-! PROOFS. Family 44_replicate: REPL (R180, R181). Its result is A's W-bit pattern (`Value.pattern`), replicated: first
the iteration and the closed form as replicated patterns, then what REPL answers, and the obligation. -/

namespace Sys2Proof

/-! ### A replicated pattern as a number (R181) -/

/-- One round of the iteration: a row of tiles over itself, shifted by a tile, is the row with one more tile. -/
theorem toNat_replicate_or_shiftLeft {w : Nat} (p : BitVec w) (n : Nat) :
    (p.replicate (n + 1)).toNat ||| (p.replicate (n + 1)).toNat <<< w = (p.replicate (n + 2)).toNat := by
  refine Nat.eq_of_testBit_eq fun j => ?_
  have hstart : w ≤ w * (n + 1) := Nat.le_mul_of_pos_right w n.succ_pos
  have hend : w * (n + 2) = w * (n + 1) + w := Nat.mul_succ w (n + 1)
  simp only [Nat.testBit_or, Nat.testBit_shiftLeft, BitVec.testBit_toNat, BitVec.getLsbD_replicate, hend]
  by_cases hj : w ≤ j
  · rw [← Nat.mod_eq_sub_mod hj, ← Bool.and_assoc, ← Bool.and_or_distrib_right]
    congr 1
    simp only [← Bool.decide_and, ← Bool.decide_or, decide_eq_decide]
    omega
  · simp [hj, show j < w * (n + 1) by omega, show j < w * (n + 1) + w by omega]

theorem toNat_replicate_eq_sum {w : Nat} (p : BitVec w) (n : Nat) :
    (p.replicate n).toNat = ((List.range n).map fun i => p.toNat * 2 ^ (i * w)).sum := by
  induction n with
  | zero => simp
  | succ n ih =>
    rw [BitVec.replicate_succ, BitVec.toNat_cast, BitVec.toNat_append,
      ← Nat.shiftLeft_add_eq_or_of_lt (p.replicate n).isLt, ih, List.range_succ, Nat.shiftLeft_eq, Nat.mul_comm w n]
    simp [Nat.add_comm]

namespace Machine

variable {a : Value} {r : Byte} {s : State}

/-! ### REPL (R180) -/

/-- Each round adds one tile: the row does not double, so every count is reached exactly (R180). -/
theorem tileLoop_replicate {w : Nat} (p : BitVec w) (n k : Nat) :
    tileLoop w n (p.replicate (k + 1)).toNat = (p.replicate (k + 1 + n)).toNat := by
  induction n generalizing k with
  | zero => rfl
  | succ n ih => rw [tileLoop, toNat_replicate_or_shiftLeft, ih, Nat.add_assoc (k + 1), Nat.add_comm 1 n]

/-- A count of 1 or more makes that many tiles. -/
theorem replRaw_eq (ha : a.valid = true) {n : Nat} (hn : n ≠ 0) :
    replRaw a.m a.w n = (a.pattern.replicate n).toNat := by
  obtain ⟨k, rfl⟩ := Nat.exists_eq_succ_of_ne_zero hn
  calc replRaw a.m a.w (k + 1)
    _ = tileLoop a.w k (a.pattern.replicate 1).toNat := by
        rw [replRaw, BitVec.replicate_one, BitVec.toNat_cast, Value.toNat_pattern ha, Nat.add_sub_cancel]
    _ = (a.pattern.replicate (k + 1)).toNat := by rw [tileLoop_replicate a.pattern k 0, Nat.zero_add, Nat.add_comm 1 k]

/-- REPL's raw result: A's pattern, replicated. -/
def replResult (a : Value) (n : Nat) : Raw := (a.pattern.replicate n).setWidth 64

theorem toNat_replResult (ha : a.valid = true) {n : Nat} (h64 : n * a.w ≤ 64) :
    (replResult a n).toNat = ((List.range n).map fun i => a.m * 2 ^ (i * a.w)).sum := by
  rw [replResult, BitVec.toNat_setWidth_of_le (Nat.mul_comm n a.w ▸ h64), toNat_replicate_eq_sum,
    Value.toNat_pattern ha]

theorem getLsbD_replResult (ha : a.valid = true) (n : Nat) {j : Nat} (hj : j < 64) :
    (replResult a n).getLsbD j = (decide (j < n * a.w) && a.mag.getLsbD (j % a.w)) := by
  rw [replResult, BitVec.getLsbD_setWidth, decide_eq_true hj, Bool.true_and, BitVec.getLsbD_replicate,
    Value.getLsbD_pattern ha, Nat.mul_comm]

theorem exec_repl_of_ne_zero (ha : a.valid = true) (hr : r.toNat ≠ 0) :
    exec (.repl a r) s = checkNot (decide (64 < r.toNat * a.w)) .replTooWide s
      (.next (s.respond (.raw (replResult a r.toNat)))) := by
  calc exec (.repl a r) s
    _ = checkNot (decide (64 < r.toNat * a.w)) .replTooWide s (resultRaw (replRaw a.m a.w r.toNat) s) :=
        (checkA_of_valid ha).trans (checkNot_of_good (decide_eq_false hr))
    _ = checkNot (decide (64 < r.toNat * a.w)) .replTooWide s
          (.next (s.respond (.raw (replResult a r.toNat)))) := by
        rw [resultRaw, replRaw_eq ha hr, BitVec.ofNat_toNat, replResult]

/-- Settles O18: the number and the bits of A's replicated pattern. A product above 64 has a count other than 0. -/
theorem replTilesTheValue : Obligations.ReplTilesTheValue := by
  refine ⟨fun w h => (decode_eq_ok_iff _ _).2 ⟨h, rfl, rfl, rfl, rfl⟩,
    fun a r s => ⟨fun ha hr h64 => ?_, ?_, fun ha hr => ?_, fun ha h64 => ?_⟩⟩
  · have hr0 : r.toNat ≠ 0 := fun h => hr (BitVec.eq_of_toNat_eq h)
    exact ⟨replResult a r.toNat, (exec_repl_of_ne_zero ha hr0).trans (checkNot_of_good (decide_eq_false h64.not_gt)),
      toNat_replResult ha h64, fun j => getLsbD_replResult ha _⟩
  · exact checkA_of_invalid
  · exact (checkA_of_valid ha).trans (checkNot_of_bad (decide_eq_true (congrArg BitVec.toNat hr)))
  · have hr0 : r.toNat ≠ 0 := fun h => by simp [h] at h64
    exact (exec_repl_of_ne_zero ha hr0).trans (checkNot_of_bad (decide_eq_true h64))

end Machine
end Sys2Proof
end

section
/-! PROOFS. Family 49_host_harness, the steps of a run (R190 to R198): what a step does at a line and at the end of the
program, the host's own lines, the start of a run, and its end. -/

namespace Sys2Proof.Machine

/-! ### Which part of the harness a step is (R191, R197, R198) -/

section
variable {s t : State} {run : Run} {l : Line}

theorem step_eq_stepRun (hrun : s.run = some run) (hst : run.status = .running) : step s = stepRun run s := by
  simp only [step, advance, hrun, hst]

theorem stepRun_of_line (hl : run.program[run.pc]? = some l) : stepRun run s = runLine run l s := by
  have hpc : run.pc < run.program.length := (List.getElem?_eq_some_iff.1 hl).1
  simp only [stepRun, if_neg hpc.ne, hl]

theorem stepRun_of_end (hpc : run.pc = run.program.length) :
    stepRun run s = .next (s.setRun (some (run.stop .done))) :=
  if_pos hpc

/-- A step of a running run ends it after its last line, or executes the line at its counter (R191). -/
theorem stepRun_next (h : stepRun run s = .next t) :
    t = s.setRun (some (run.stop .done)) ∨ ∃ l, run.program[run.pc]? = some l ∧ runLine run l s = .next t := by
  by_cases hpc : run.pc = run.program.length
  · rw [stepRun_of_end hpc] at h
    cases h
    exact .inl rfl
  · cases hl : run.program[run.pc]? with
    | none => simp only [stepRun, if_neg hpc, hl, reduceCtorEq] at h
    | some l => exact .inr ⟨l, rfl, (stepRun_of_line hl).symm.trans h⟩

theorem State.AtLine.step_eq_runLine (h : s.AtLine run l) : step s = runLine run l s := by
  obtain ⟨hrun, hst, hl⟩ := h
  exact (step_eq_stepRun hrun hst).trans (stepRun_of_line hl)

/-- Settles O44: `stepRun_of_end`. -/
theorem runPastTheLastLineIsDone : Obligations.RunPastTheLastLineIsDone :=
  fun _ _ hrun hst hpc => (step_eq_stepRun hrun hst).trans (stepRun_of_end hpc)

/-- CORE's answer is no part of the run (R44). -/
theorem run_of_serve (h : serve s = .next t) : t.run = s.run := by
  obtain ⟨r, hr⟩ := serve_answers s.request
  rw [hr s rfl] at h
  cases h
  rfl

theorem run_succ_of_step {M : Host.Core} {s t : M.State} {n : Nat} (h : M.step s = .next t) :
    M.run (n + 1) s = M.run n t := by
  rw [Host.Core.run, h]

/-- Settles O52, by induction on the number of steps: each is an answer of CORE, which leaves the run as it is. -/
theorem endedRunsAreFinal : Obligations.EndedRunsAreFinal := by
  intro n
  induction n with
  | zero => exact fun s run hrun _ => ⟨s, rfl, hrun⟩
  | succ n ih =>
    intro s run hrun hst
    have hidle : s.Idle := fun r hr => Option.some.inj (hrun.symm.trans hr) ▸ hst
    obtain ⟨r, hr⟩ := step_answers_of_idle s.request
    have hstep : step s = .next (s.respond r) := hr s hidle rfl
    obtain ⟨t, ht, htrun⟩ := ih (s.respond r) run hrun hst
    exact ⟨t, (run_succ_of_step (M := core) hstep).trans ht, htrun⟩

end

/-! ### The start of a run (R190, R195, R234) -/

section
variable {s : State} {p : List Line} {v : Vector (Option Value) 16} {x : Vector (Option Raw) 16}

theorem startSlotValid_iff (slot : Option Value) : startSlotValid slot = true ↔ ∀ u, slot = some u → u.valid = true := by
  cases slot <;> simp [startSlotValid]

/-- The check of a start state is that its run is good. -/
theorem good_start_iff : (Run.start p v x).Good ↔ (programWellFormed p && v.toList.all startSlotValid) = true := by
  have hslots : (Run.start p v x).SlotsValid ↔ v.toList.all startSlotValid = true := by
    rw [Vector.all_toList, Vector.all_eq_true]
    simp only [startSlotValid_iff]
    exact ⟨fun h i hi => h ⟨i, hi⟩, fun h n => h n n.isLt⟩
  rw [Bool.and_eq_true, ← hslots]
  exact ⟨fun ⟨hp, hv, _⟩ => ⟨hp, hv⟩, fun ⟨hp, hv⟩ => ⟨hp, hv, Nat.zero_le _⟩⟩

theorem startRun_of_good (h : (Run.start p v x).Good) : startRun s p v x = some (s.setRun (some (Run.start p v x))) :=
  if_pos (good_start_iff.1 h)

theorem startRun_of_not_good (h : ¬ (Run.start p v x).Good) : startRun s p v x = none :=
  if_neg fun hc => h (good_start_iff.2 hc)

theorem State.good_setRun_iff {run : Run} : (s.setRun (some run)).Good ↔ run.Good :=
  ⟨fun h => h run rfl, by rintro h r ⟨⟩; exact h⟩

/-- Settles O43: a run starts exactly if it is good at its start. -/
theorem runStartsAtLineZero : Obligations.RunStartsAtLineZero := by
  refine fun s p v x => ⟨fun hp hv => ?_, fun hp => startRun_of_not_good fun hg => ?_⟩
  · have hg : (Run.start p v x).Good := ⟨hp, hv, Nat.zero_le _⟩
    exact ⟨_, startRun_of_good hg, State.good_setRun_iff.2 hg, rfl⟩
  · obtain ⟨hwf, -, -⟩ := hg
    exact absurd (hp.symm.trans hwf) Bool.false_ne_true

/-- Settles O57: a run with an invalid pair in a slot is not good at its start. -/
theorem invalidStartValuesStartNoRun : Obligations.InvalidStartValuesStartNoRun := by
  refine fun s p v x n u hn hu => startRun_of_not_good fun hg => ?_
  obtain ⟨-, hv, -⟩ := hg
  exact absurd (hu.symm.trans (hv n u hn)) Bool.false_ne_true

end

/-! ### Reading operands (R192, R194) -/

section
variable {run : Run} {a b : RawArg} {x y : Raw}

theorem readByte_of_le (ha : readRaw run a = .ok x) (hx : x.toNat ≤ 255) : readByte run a = .ok (x.setWidth 8) := by
  simp only [readByte, ha, if_pos hx]

theorem readByte_of_gt (ha : readRaw run a = .ok x) (hx : 255 < x.toNat) : readByte run a = .error .range := by
  simp only [readByte, ha, if_neg hx.not_ge]

theorem readShift_of_lt (ha : readRaw run a = .ok x) (hx : x.toNat < 64) : readShift run a = .ok x := by
  simp only [readShift, ha, if_pos hx]

theorem readShift_of_ge (ha : readRaw run a = .ok x) (hx : 64 ≤ x.toNat) : readShift run a = .error .shift := by
  simp only [readShift, ha, if_neg hx.not_gt]

theorem readDivisor_of_ne (ha : readRaw run a = .ok x) (hx : x.toNat ≠ 0) : readDivisor run a = .ok x := by
  simp only [readDivisor, ha, if_neg hx]

theorem readDivisor_of_zero (ha : readRaw run a = .ok x) (hx : x.toNat = 0) : readDivisor run a = .error .divZero := by
  simp only [readDivisor, ha, if_pos hx]

theorem readEqual_of_ok (ha : readRaw run a = .ok x) (hb : readRaw run b = .ok y) :
    readEqual run a b = .ok (decide (x = y)) := by
  simp only [readEqual, ha, hb, both, Except.map]

/-- `mag` of a written slot: the magnitude is not cut by the 64 bits it is read in (R192). -/
theorem readRaw_mag {n : Fin 16} {v : Value} (hv : run.v[n] = some v) :
    ∃ z, readRaw run (.mag n) = .ok z ∧ z.toNat = v.m :=
  ⟨v.mag.setWidth 64, by simp only [readRaw, hv, readSlot, Except.map], BitVec.toNat_setWidth_of_le (by decide)⟩

/-- `wid` of a written slot (R192). -/
theorem readRaw_wid {n : Fin 16} {v : Value} (hv : run.v[n] = some v) :
    ∃ z, readRaw run (.wid n) = .ok z ∧ z.toNat = v.w :=
  ⟨v.width.setWidth 64, by simp only [readRaw, hv, readSlot, Except.map], BitVec.toNat_setWidth_of_le (by decide)⟩

/-- Settles O46. A number of at most 255 is not cut by its 8-bit field. -/
theorem operandFormsAreRead : Obligations.OperandFormsAreRead := by
  refine fun run n => ⟨fun v => rfl, fun v => (readSlot_eq_ok_iff _ v).2, fun x => rfl,
    fun x => (readSlot_eq_ok_iff _ x).2, fun v => readRaw_mag, fun v => readRaw_wid,
    fun a x ha hx => ⟨x.setWidth 8, readByte_of_le ha hx, ?_⟩⟩
  rw [BitVec.toNat_setWidth, Nat.mod_eq_of_lt (Nat.lt_succ_of_le hx)]

end

/-! ### The host's own lines (R194, R195, R198) -/

section
variable {s : State} {run run' : Run} {a b : RawArg} {x y : Raw}

theorem hostLine_ok : hostLine run (.ok run') s = .next (s.setRun (some run')) := rfl

theorem hostLine_error (e : HostFault) :
    hostLine run (.error e) s = .next (s.setRun (some (run.stop (.hostFault e run.pc)))) := rfl

theorem step_arith_of_ok {d : Fin 16} {c : Arith} {z : Raw} (h : s.AtLine run (.arith d c)) (hc : evalArith run c = .ok z) :
    step s = .next (s.setRun (some (run.writeX d z))) := by
  rw [h.step_eq_runLine, runLine, hc, Except.map, hostLine_ok]

theorem step_arith_of_error {d : Fin 16} {c : Arith} {e : HostFault} (h : s.AtLine run (.arith d c))
    (hc : evalArith run c = .error e) : step s = .next (s.setRun (some (run.stop (.hostFault e run.pc)))) := by
  rw [h.step_eq_runLine, runLine, hc, Except.map, hostLine_error]

/-! The numbers of R194, taken modulo 2^64, are the results of the word operations. -/

theorem ofNat_toNat_add : BitVec.ofNat 64 (x.toNat + y.toNat) = x + y := by
  rw [BitVec.ofNat_add, BitVec.ofNat_toNat, BitVec.ofNat_toNat, BitVec.setWidth_eq, BitVec.setWidth_eq]

theorem ofInt_toNat_sub : BitVec.ofInt 64 ((x.toNat : Int) - (y.toNat : Int)) = x - y := by
  rw [Int.sub_eq_add_neg, BitVec.ofInt_add, BitVec.ofInt_neg, BitVec.ofInt_natCast, BitVec.ofInt_natCast,
    BitVec.ofNat_toNat, BitVec.ofNat_toNat, BitVec.setWidth_eq, BitVec.setWidth_eq, BitVec.sub_eq_add_neg]

theorem ofNat_toNat_mul_two_pow : BitVec.ofNat 64 (x.toNat * 2 ^ y.toNat) = x <<< y := by
  apply BitVec.eq_of_toNat_eq
  rw [BitVec.toNat_ofNat, BitVec.shiftLeft_eq', BitVec.toNat_shiftLeft, Nat.shiftLeft_eq]

theorem ofNat_toNat_div : BitVec.ofNat 64 (x.toNat / y.toNat) = x / y := by
  rw [← BitVec.toNat_udiv, BitVec.ofNat_toNat, BitVec.setWidth_eq]

/-- Settles O50: what the second operand's own check reads decides between the result and the host fault. -/
theorem hostArithmetic : Obligations.HostArithmetic := by
  intro s run d a b x y ha hb
  refine ⟨fun h => step_arith_of_ok h ha, fun h => step_arith_of_ok h ?_, fun h => step_arith_of_ok h ?_,
    fun h hy => step_arith_of_ok h ?_, fun h hy => step_arith_of_error h ?_, fun h hy => step_arith_of_ok h ?_,
    fun h hy => step_arith_of_error h ?_⟩
  · simp only [evalArith, ha, hb, both, Except.map, ofNat_toNat_add]
  · simp only [evalArith, ha, hb, both, Except.map, ofInt_toNat_sub]
  · simp only [evalArith, ha, readShift_of_lt hb hy, both, Except.map, ofNat_toNat_mul_two_pow]
  · simp only [evalArith, ha, readShift_of_ge hb hy, both, Except.map]
  · have hy0 : y.toNat ≠ 0 := fun h0 => hy (BitVec.eq_of_toNat_eq h0)
    simp only [evalArith, ha, readDivisor_of_ne hb hy0, both, Except.map, ofNat_toNat_div]
  · simp only [evalArith, ha, readDivisor_of_zero hb (congrArg BitVec.toNat hy), both, Except.map]

/-- A comparison of a control line goes on with its outcome (R195). -/
theorem hostLine_readEqual (ha : readRaw run a = .ok x) (hb : readRaw run b = .ok y) (f : Bool → Run) :
    hostLine run ((readEqual run a b).map f) s = .next (s.setRun (some (f (decide (x = y))))) := by
  rw [readEqual_of_ok ha hb, Except.map, hostLine_ok]

/-- Settles O51: a comparison is decided by whether `x = y`; `jmp` and `halt` read nothing. -/
theorem controlLines : Obligations.ControlLines := by
  refine ⟨fun s run a b x y n ha hb => ?_, fun s run n h => h.step_eq_runLine, fun s run h => h.step_eq_runLine⟩
  refine ⟨fun h => ?_, fun h => ?_, fun h hxy => ?_, fun h hxy => ?_⟩ <;>
    rw [h.step_eq_runLine, runLine, hostLine_readEqual ha hb]
  · rw [← apply_ite run.goto]; simp only [decide_eq_true_eq]; rfl
  · rw [← apply_ite run.goto]; simp only [decide_eq_true_eq]; rfl
  · rw [decide_eq_true hxy]; rfl
  · rw [decide_eq_false hxy]; rfl

end

end Sys2Proof.Machine
end

section
/-! PROOFS. Family 49_host_harness, the lines of a run that can fault: what reading an operand reports (R192, R194, R196),
the one request of a block-issue line (R193), and that every step keeps a run good (R190, R195). -/

namespace Sys2Proof.Machine

/-! ### Reading reports the operands' faults, and one of them where there is any (R192, R194) -/

/-- Reading succeeds where none of the operands faults, and else gives one of their faults. -/
def Reports {α : Type} : Read α → List HostFault → Prop
  | .ok _, fs => fs = []
  | .error e, fs => e ∈ fs

section
variable {α β : Type} {run : Run} {fs gs : List HostFault}

theorem Reports.exists_ok {r : Read α} (h : Reports r fs) (hfs : fs = []) : ∃ a, r = .ok a := by
  cases r with
  | ok a => exact ⟨a, rfl⟩
  | error e => exact absurd (hfs ▸ h : e ∈ []) List.not_mem_nil

theorem Reports.exists_error {r : Read α} (h : Reports r fs) (hfs : fs ≠ []) : ∃ e ∈ fs, r = .error e := by
  cases r with
  | ok a => exact absurd h hfs
  | error e => exact ⟨e, h, rfl⟩

theorem Reports.map {r : Read α} (h : Reports r fs) (f : α → β) : Reports (r.map f) fs := by
  cases r <;> exact h

theorem Reports.both {r : Read α} {q : Read β} (n : Nat) (hr : Reports r fs) (hq : Reports q gs) :
    Reports (both n r q) (fs ++ gs) := by
  cases hb : Machine.both n r q with
  | ok p =>
    obtain ⟨rfl, rfl⟩ := (both_eq_ok_iff n r q p).1 hb
    exact List.append_eq_nil_iff.2 ⟨hr, hq⟩
  | error e =>
    obtain rfl | rfl := both_eq_error hb
    · exact List.mem_append_left _ hr
    · exact List.mem_append_right _ hq

theorem reports_readSlot {o : Option α} : Reports (readSlot o) (if o = none then [.unwritten] else []) := by
  cases o <;> simp [readSlot, Reports]

theorem reports_readValue (a : ValueArg) : Reports (readValue run a) (valueFaults run a) := by
  cases a with
  | slot n => exact reports_readSlot
  | lit v => rfl

/-- A raw operand is read as its number, or its slot is unwritten. -/
theorem readRaw_cases (run : Run) (a : RawArg) :
    (readRaw run a = .error .unwritten ∧ rawNumber run a = none) ∨
      ∃ x, readRaw run a = .ok x ∧ rawNumber run a = some x.toNat := by
  cases a with
  | imm n => exact .inr ⟨n, rfl, rfl⟩
  | slot n => cases h : run.x[n] <;> simp [readRaw, rawNumber, readSlot, h]
  | mag n =>
    cases h : run.v[n] with
    | none => simp [readRaw, rawNumber, readSlot, Except.map, h]
    | some v =>
      obtain ⟨x, hx, hm⟩ := readRaw_mag h
      exact .inr ⟨x, hx, by rw [rawNumber, h, Option.map_some, hm]⟩
  | wid n =>
    cases h : run.v[n] with
    | none => simp [readRaw, rawNumber, readSlot, Except.map, h]
    | some v =>
      obtain ⟨x, hx, hw⟩ := readRaw_wid h
      exact .inr ⟨x, hx, by rw [rawNumber, h, Option.map_some, hw]⟩

/-- A reading passes an unwritten slot on; a number it faults exactly where the number is bad. -/
theorem reports_rawFaults {bad : Nat → Bool} {k : HostFault} {a : RawArg} {r : Read α}
    (herr : ∀ e, readRaw run a = .error e → r = .error e)
    (hbad : ∀ x, readRaw run a = .ok x → bad x.toNat = true → r = .error k)
    (hgood : ∀ x, readRaw run a = .ok x → bad x.toNat = false → ∃ y, r = .ok y) :
    Reports r (rawFaults run bad k a) := by
  obtain ⟨hr, hn⟩ | ⟨x, hr, hn⟩ := readRaw_cases run a
  · simp only [rawFaults, hn, herr _ hr, Reports, List.mem_singleton]
  · cases hx : bad x.toNat with
    | true => simp [rawFaults, hn, hx, hbad x hr hx, Reports]
    | false =>
      obtain ⟨y, hy⟩ := hgood x hr hx
      simp [rawFaults, hn, hx, hy, Reports]

theorem reports_readRaw (a : RawArg) : Reports (readRaw run a) (plainFaults run a) :=
  reports_rawFaults (fun _ h => h) (fun _ _ hx => absurd hx Bool.false_ne_true) fun x h _ => ⟨x, h⟩

theorem reports_readByte (a : RawArg) : Reports (readByte run a) (byteFaults run a) :=
  reports_rawFaults (fun _ h => by simp only [readByte, h]) (fun _ h hx => readByte_of_gt h (of_decide_eq_true hx))
    fun _ h hx => ⟨_, readByte_of_le h (not_lt.1 (of_decide_eq_false hx))⟩

theorem reports_readShift (a : RawArg) :
    Reports (readShift run a) (rawFaults run (fun n => decide (64 ≤ n)) .shift a) :=
  reports_rawFaults (fun _ h => by simp only [readShift, h]) (fun _ h hx => readShift_of_ge h (of_decide_eq_true hx))
    fun _ h hx => ⟨_, readShift_of_lt h (not_le.1 (of_decide_eq_false hx))⟩

theorem reports_readDivisor (a : RawArg) :
    Reports (readDivisor run a) (rawFaults run (fun n => decide (n = 0)) .divZero a) :=
  reports_rawFaults (fun _ h => by simp only [readDivisor, h])
    (fun _ h hx => readDivisor_of_zero h (of_decide_eq_true hx))
    fun _ h hx => ⟨_, readDivisor_of_ne h (of_decide_eq_false hx)⟩

theorem reports_resolveValueForm (d : Fin 16) (f : ValueForm) :
    Reports (resolveValueForm run f) (lineFaults run (.issueV d f)) := by
  cases f with
  | new m w => exact ((reports_readByte m).both _ (reports_readByte w)).map _
  | trunc m w => exact ((reports_readByte m).both _ (reports_readByte w)).map _
  | ones w => exact (reports_readByte w).map _
  | not a => exact (reports_readValue a).map _
  | andv a b => exact ((reports_readValue a).both _ (reports_readValue b)).map _
  | andr a r => exact ((reports_readValue a).both _ (reports_readByte r)).map _
  | or a b => exact ((reports_readValue a).both _ (reports_readValue b)).map _
  | sub a b => exact ((reports_readValue a).both _ (reports_readValue b)).map _
  | sext a w => exact ((reports_readValue a).both _ (reports_readByte w)).map _
  | zext a w => exact ((reports_readValue a).both _ (reports_readByte w)).map _
  | concat a b => exact ((reports_readValue a).both _ (reports_readValue b)).map _
  | rotr a n => exact ((reports_readValue a).both _ (reports_readByte n)).map _

theorem reports_resolveRawForm (d : Fin 16) (f : RawForm) :
    Reports (resolveRawForm run f) (lineFaults run (.issueX d f)) := by
  cases f with
  | cmp a b => exact ((reports_readValue a).both _ (reports_readValue b)).map _
  | width a => exact (reports_readValue a).map _
  | hsb a => exact (reports_readValue a).map _
  | repl a n => exact ((reports_readValue a).both _ (reports_readByte n)).map _

theorem reports_evalArith (d : Fin 16) (c : Arith) : Reports (evalArith run c) (lineFaults run (.arith d c)) := by
  cases c with
  | mov a => exact reports_readRaw a
  | add a b => exact ((reports_readRaw a).both _ (reports_readRaw b)).map _
  | sub a b => exact ((reports_readRaw a).both _ (reports_readRaw b)).map _
  | shl a b => exact ((reports_readRaw a).both _ (reports_readShift b)).map _
  | div a b => exact ((reports_readRaw a).both _ (reports_readDivisor b)).map _

theorem reports_readEqual (a b : RawArg) :
    Reports (readEqual run a b) (plainFaults run a ++ plainFaults run b) :=
  ((reports_readRaw a).both _ (reports_readRaw b)).map _

/-- The run stops at its line with one of the faults (R198). -/
def StopsWith (run : Run) (s : State) (fs : List HostFault) (res : Result) : Prop :=
  ∃ k ∈ fs, res = .next (s.setRun (some (run.stop (.hostFault k run.pc))))

variable {s : State}

theorem hostLine_stopsWith {r : Read Run} (h : Reports r fs) (hfs : fs ≠ []) :
    StopsWith run s fs (hostLine run r s) := by
  obtain ⟨e, he, rfl⟩ := h.exists_error hfs
  exact ⟨e, he, rfl⟩

theorem issue_stopsWith {i : Read Instr} {write : Response → Run} (h : Reports i fs) (hfs : fs ≠ []) :
    StopsWith run s fs (issue run i write s) := by
  obtain ⟨e, he, rfl⟩ := h.exists_error hfs
  exact ⟨e, he, rfl⟩

theorem runLine_stopsWith {l : Line} (hfs : lineFaults run l ≠ []) :
    StopsWith run s (lineFaults run l) (runLine run l s) := by
  cases l with
  | issueV d f => exact issue_stopsWith (reports_resolveValueForm d f) hfs
  | issueX d f => exact issue_stopsWith (reports_resolveRawForm d f) hfs
  | arith d c => exact hostLine_stopsWith ((reports_evalArith d c).map _) hfs
  | beq a b n => exact hostLine_stopsWith ((reports_readEqual a b).map _) hfs
  | bne a b n => exact hostLine_stopsWith ((reports_readEqual a b).map _) hfs
  | jmp n => exact absurd rfl hfs
  | haltIfEq a b => exact hostLine_stopsWith ((reports_readEqual a b).map _) hfs
  | halt => exact absurd rfl hfs

/-- Settles O45, by cases on the line: each reads its operands before it does anything else. -/
theorem hostFaultsStopTheRun : Obligations.HostFaultsStopTheRun := by
  intro s run l h hfs
  rw [h.step_eq_runLine]
  exact runLine_stopsWith hfs

end

/-! ### Value results and raw results (R5, R64, R193) -/

/-- The operations whose result is raw (R64). -/
def givesRaw : Instr → Bool
  | .cmp _ _ | .width _ | .hsb _ | .repl _ _ => true
  | .new _ _ | .trunc _ _ | .ones _ | .not _ | .andv _ _ | .andr _ _ | .or _ _ | .sub _ _ | .sext _ _ | .zext _ _
  | .concat _ _ | .rotr _ _ => false

/-- A response is a result of the kind, raw or a value, or a fault status. -/
def Response.OfKind (raw : Bool) : Response → Prop
  | .value _ => raw = false
  | .raw _ => raw = true
  | .fault _ => True

/-- The answer is a response of the kind. -/
def AnswersKind (raw : Bool) (s : State) (res : Result) : Prop :=
  ∃ r : Response, res = .next (s.respond r) ∧ r.OfKind raw

section
variable {raw : Bool} {s : State} {res rest : Result} {i : Instr}

theorem answersKind_raise (c : FaultCode) : AnswersKind raw s (raise c s) := ⟨_, rfl, trivial⟩

theorem answersKind_resultValue (m w : Nat) : AnswersKind false s (resultValue m w s) := ⟨_, rfl, rfl⟩

theorem answersKind_resultRaw (x : Nat) : AnswersKind true s (resultRaw x s) := ⟨_, rfl, rfl⟩

theorem answersKind_ite {p : Prop} [Decidable p] (h : AnswersKind raw s res) (h' : AnswersKind raw s rest) :
    AnswersKind raw s (if p then res else rest) := by
  split_ifs
  · exact h
  · exact h'

theorem answersKind_checkA {a : Value} (h : AnswersKind raw s rest) : AnswersKind raw s (checkA a s rest) :=
  answersKind_ite h (answersKind_raise _)

theorem answersKind_checkB {b : Value} (h : AnswersKind raw s rest) : AnswersKind raw s (checkB b s rest) :=
  answersKind_ite h (answersKind_raise _)

theorem answersKind_checkWidth {k : Byte} (h : AnswersKind raw s rest) : AnswersKind raw s (checkWidth k s rest) :=
  answersKind_ite h (answersKind_raise _)

theorem answersKind_checkNot {bad : Bool} {c : FaultCode} (h : AnswersKind raw s rest) :
    AnswersKind raw s (checkNot bad c s rest) :=
  answersKind_ite (answersKind_raise _) h

/-- Past its checks, an operation ends in a result of its kind. -/
theorem exec_answersKind (i : Instr) (s : State) : AnswersKind (givesRaw i) s (exec i s) := by
  cases i with
  | new r k => exact answersKind_checkWidth (answersKind_checkNot (answersKind_resultValue _ _))
  | trunc r k => exact answersKind_checkWidth (answersKind_resultValue _ _)
  | ones k => exact answersKind_checkWidth (answersKind_resultValue _ _)
  | cmp a b => exact answersKind_checkA (answersKind_checkB (answersKind_resultRaw _))
  | not a => exact answersKind_checkA (answersKind_resultValue _ _)
  | andv a b => exact answersKind_checkA (answersKind_checkB (answersKind_resultValue _ _))
  | andr a r => exact answersKind_checkA (answersKind_resultValue _ _)
  | or a b => exact answersKind_checkA (answersKind_checkB (answersKind_resultValue _ _))
  | sub a b => exact answersKind_checkA (answersKind_checkB (answersKind_checkNot (answersKind_resultValue _ _)))
  | sext a k => exact answersKind_checkA (answersKind_checkWidth (answersKind_checkNot (answersKind_resultValue _ _)))
  | zext a k => exact answersKind_checkA (answersKind_checkWidth (answersKind_checkNot (answersKind_resultValue _ _)))
  | concat a b => exact answersKind_checkA (answersKind_checkB (answersKind_checkNot (answersKind_resultValue _ _)))
  | width a => exact answersKind_checkA (answersKind_resultRaw _)
  | hsb a => exact answersKind_checkA (answersKind_checkNot (answersKind_resultRaw _))
  | rotr a r => exact answersKind_checkA (answersKind_resultValue _ _)
  | repl a r => exact answersKind_checkA (answersKind_checkNot (answersKind_checkNot (answersKind_resultRaw _)))

theorem exec_fault_or_value (h : givesRaw i = false) (s : State) :
    (∃ c, exec i s = .next (s.respond (.fault c))) ∨
      ∃ v, v.valid = true ∧ exec i s = .next (s.respond (.value v)) := by
  obtain ⟨r, hr, hk⟩ := exec_answersKind i s
  cases r with
  | value v => exact .inr ⟨v, exec_givesValid i s _ v hr rfl, hr⟩
  | raw x => exact absurd (h.symm.trans hk) Bool.false_ne_true
  | fault c => exact .inl ⟨c, hr⟩

theorem exec_fault_or_raw (h : givesRaw i = true) (s : State) :
    (∃ c, exec i s = .next (s.respond (.fault c))) ∨ ∃ x, exec i s = .next (s.respond (.raw x)) := by
  obtain ⟨r, hr, hk⟩ := exec_answersKind i s
  cases r with
  | value v => exact absurd (hk.symm.trans h) Bool.false_ne_true
  | raw x => exact .inr ⟨x, hr⟩
  | fault c => exact .inl ⟨c, hr⟩

theorem read_map_eq_ok {α β : Type} {r : Read α} {f : α → β} {b : β} (h : r.map f = .ok b) : ∃ a, f a = b := by
  cases r with
  | ok a => exact ⟨a, Except.ok.inj h⟩
  | error e => cases h

theorem givesRaw_of_resolveValueForm {run : Run} {f : ValueForm} (h : resolveValueForm run f = .ok i) :
    givesRaw i = false := by
  cases f <;> (obtain ⟨p, rfl⟩ := read_map_eq_ok h; rfl)

theorem givesRaw_of_resolveRawForm {run : Run} {f : RawForm} (h : resolveRawForm run f = .ok i) :
    givesRaw i = true := by
  cases f <;> (obtain ⟨p, rfl⟩ := read_map_eq_ok h; rfl)

end

/-! ### The one request of a block-issue line (R193) -/

section
variable {s t : State} {run : Run} {i : Instr} {write : Response → Run}

/-- An assembled word is answered as its instruction. -/
theorem serve_present_encode (i : Instr) (s : State) :
    serve (s.present (encode i)) = exec i (s.present (encode i)) :=
  serve_of_decode_ok (decodeOfEncode i)

/-- The line presents the word, CORE answers it, and the response finishes the line. -/
theorem issue_of_exec {r : Response} (h : exec i (s.present (encode i)) = .next ((s.present (encode i)).respond r)) :
    issue run (.ok i) write s =
      .next (((s.present (encode i)).respond r).setRun (some (finishIssue run r write))) := by
  simp only [issue, serve_present_encode, h, State.respond_response]

/-- Settles O48: the form resolves to an operation with a value result, which CORE answers with a fault or a value. -/
theorem valueLinesIssueOneRequest : Obligations.ValueLinesIssueOneRequest := by
  intro s run d f h hfs
  obtain ⟨i, hi⟩ := (reports_resolveValueForm d f).exists_ok hfs
  have hstep := h.step_eq_runLine
  rw [runLine, hi] at hstep
  refine ⟨i, hi, ?_⟩
  obtain ⟨c, hc⟩ | ⟨v, hv, hx⟩ := exec_fault_or_value (givesRaw_of_resolveValueForm hi) (s.present (encode i))
  · exact .inl ⟨c, hc, hstep.trans (issue_of_exec hc)⟩
  · exact .inr ⟨v, hv, hx, hstep.trans (issue_of_exec hx)⟩

/-- Settles O49: the form resolves to an operation with a raw result, which CORE answers with a fault or a raw number. -/
theorem rawLinesIssueOneRequest : Obligations.RawLinesIssueOneRequest := by
  intro s run d f h hfs
  obtain ⟨i, hi⟩ := (reports_resolveRawForm d f).exists_ok hfs
  have hstep := h.step_eq_runLine
  rw [runLine, hi] at hstep
  refine ⟨i, hi, ?_⟩
  obtain ⟨c, hc⟩ | ⟨x, hx⟩ := exec_fault_or_raw (givesRaw_of_resolveRawForm hi) (s.present (encode i))
  · exact .inl ⟨c, hc, hstep.trans (issue_of_exec hc)⟩
  · exact .inr ⟨x, hx, hstep.trans (issue_of_exec hx)⟩

end

/-! ### Every step keeps a run good (R25, R190, R195) -/

section
variable {s t : State} {run : Run}

theorem Run.Good.stop (h : run.Good) (st : Status) : (run.stop st).Good := h

theorem Run.Good.goto (h : run.Good) {n : Nat} (hn : n ≤ run.program.length) : (run.goto n).Good := by
  obtain ⟨hp, hv, -⟩ := h
  exact ⟨hp, hv, hn⟩

theorem Run.Good.writeX (h : run.Good) (hpc : run.pc < run.program.length) (d : Fin 16) (x : Raw) :
    (run.writeX d x).Good := by
  obtain ⟨hp, hv, -⟩ := h
  exact ⟨hp, hv, hpc⟩

theorem Run.Good.writeV (h : run.Good) (hpc : run.pc < run.program.length) (d : Fin 16) {v : Value}
    (hv : v.valid = true) : (run.writeV d v).Good := by
  obtain ⟨hp, hslots, -⟩ := h
  refine ⟨hp, fun n u hu => ?_, hpc⟩
  rw [Run.writeV_v, Fin.getElem_fin, Vector.getElem_set] at hu
  split_ifs at hu
  · exact Option.some.inj hu ▸ hv
  · exact hslots n u hu

theorem hostLine_keeps_good (hg : run.Good) {r : Read Run} (hr : ∀ run', r = .ok run' → run'.Good)
    (h : hostLine run r s = .next t) : t.Good := by
  cases r with
  | ok run' => cases h; exact State.good_setRun_iff.2 (hr run' rfl)
  | error e => cases h; exact State.good_setRun_iff.2 (hg.stop _)

/-- A comparison goes on with one of two runs. -/
theorem hostLine_readEqual_keeps_good (hg : run.Good) {a b : RawArg} {f : Bool → Run} (hf : ∀ e, (f e).Good)
    (h : hostLine run ((readEqual run a b).map f) s = .next t) : t.Good := by
  refine hostLine_keeps_good hg (fun run' hrun' => ?_) h
  obtain ⟨e, rfl⟩ := read_map_eq_ok hrun'
  exact hf e

theorem issue_keeps_good (hg : run.Good) {r : Read Instr} {write : Response → Run}
    (hr : ∀ i, r = .ok i → ∀ s, (∃ c, exec i s = .next (s.respond (.fault c))) ∨
      ∃ res, (finishIssue run res write).Good ∧ exec i s = .next (s.respond res))
    (h : issue run r write s = .next t) : t.Good := by
  cases r with
  | error e => cases h; exact State.good_setRun_iff.2 (hg.stop _)
  | ok i =>
    obtain ⟨c, hc⟩ | ⟨res, hres, hx⟩ := hr i rfl (s.present (encode i))
    · rw [issue_of_exec hc] at h
      cases h
      exact State.good_setRun_iff.2 (hg.stop _)
    · rw [issue_of_exec hx] at h
      cases h
      exact State.good_setRun_iff.2 hres

/-- A value slot receives CORE's value result, which is valid whatever the line's operands are; a target lies in the program
or at its end (R195). -/
theorem runLine_keeps_good {l : Line} (hg : run.Good) (hpc : run.pc < run.program.length)
    (hl : l.wellFormed run.program.length = true) (h : runLine run l s = .next t) : t.Good := by
  have hnext : (run.goto (run.pc + 1)).Good := hg.goto hpc
  cases l with
  | issueV d f =>
    refine issue_keeps_good hg (fun i hi s => ?_) h
    exact (exec_fault_or_value (givesRaw_of_resolveValueForm hi) s).imp_right fun ⟨v, hv, hx⟩ =>
      ⟨.value v, hg.writeV hpc d hv, hx⟩
  | issueX d f =>
    refine issue_keeps_good hg (fun i hi s => ?_) h
    exact (exec_fault_or_raw (givesRaw_of_resolveRawForm hi) s).imp_right fun ⟨x, hx⟩ =>
      ⟨.raw x, hg.writeX hpc d x, hx⟩
  | arith d c =>
    refine hostLine_keeps_good hg (fun run' hrun' => ?_) h
    obtain ⟨x, rfl⟩ := read_map_eq_ok hrun'
    exact hg.writeX hpc d x
  | beq a b n =>
    have hn : (run.goto n).Good := hg.goto (of_decide_eq_true hl)
    exact hostLine_readEqual_keeps_good hg (Bool.forall_bool.2 ⟨hnext, hn⟩) h
  | bne a b n =>
    have hn : (run.goto n).Good := hg.goto (of_decide_eq_true hl)
    exact hostLine_readEqual_keeps_good hg (Bool.forall_bool.2 ⟨hn, hnext⟩) h
  | jmp n =>
    cases h
    exact State.good_setRun_iff.2 (hg.goto (of_decide_eq_true hl))
  | haltIfEq a b => exact hostLine_readEqual_keeps_good hg (Bool.forall_bool.2 ⟨hnext, hg.stop _⟩) h
  | halt =>
    cases h
    exact State.good_setRun_iff.2 (hg.stop _)

theorem stepRun_keeps_good (hg : run.Good) (h : stepRun run s = .next t) : t.Good := by
  obtain rfl | ⟨l, hl, h⟩ := stepRun_next h
  · exact State.good_setRun_iff.2 (hg.stop _)
  · have hpc : run.pc < run.program.length := (List.getElem?_eq_some_iff.1 hl).1
    have hwf : l.wellFormed run.program.length = true := by
      obtain ⟨hp, -, -⟩ := hg
      exact List.all_eq_true.1 hp l (List.mem_of_getElem? hl)
    exact runLine_keeps_good hg hpc hwf h

/-- Settles O53: CORE's answer leaves the run alone, and each line of a good run leads to a good run. -/
theorem everyStepKeepsRunsGood : Obligations.EveryStepKeepsRunsGood := by
  intro s t hs h
  obtain he | ⟨run, hrun, -, he⟩ := step_eq_serve_or_stepRun s <;> rw [he] at h
  · exact fun r hr => hs r ((run_of_serve h).symm.trans hr)
  · exact stepRun_keeps_good (hs run hrun) h

end

end Sys2Proof.Machine
end

section
/-! PROOFS. Family 60_exceptions: the status codes (R201) and the priority of faults (R202, R203). Every operation is its
checks, run in the order of R202, in front of a result. -/

namespace Sys2Proof.Machine

/-! ### The status codes (R201) -/

/-- The fault statuses in the order of R201's table. -/
def statusTable : List FaultCode :=
  [.illegalOp, .badOperandA, .badOperandB, .badWidth, .magTooWide, .widthMismatch, .narrowingExtend, .concatTooWide,
    .replTooWide, .replZeroCount, .hsbZero]

theorem mem_statusTable (c : FaultCode) : c ∈ statusTable := by cases c <;> decide

theorem map_code_statusTable : statusTable.map (fun c => c.code.toNat) = List.range' 1 11 := by decide

theorem FaultCode.code_le (c : FaultCode) : c.code.toNat ≤ 11 := by
  have h : c.code.toNat ∈ List.range' 1 11 := map_code_statusTable ▸ List.mem_map_of_mem (mem_statusTable c)
  obtain ⟨-, hlt⟩ := List.mem_range'_1.1 h
  exact Nat.le_of_lt_succ hlt

/-- No number stands twice in the table. -/
theorem FaultCode.code_injective : Function.Injective FaultCode.code := by
  have hnodup : (statusTable.map fun c => c.code.toNat).Nodup := map_code_statusTable ▸ List.nodup_range'
  exact fun c d h =>
    List.inj_on_of_nodup_map hnodup (mem_statusTable c) (mem_statusTable d) (congrArg BitVec.toNat h)

theorem Response.st_le (r : Response) : r.st.toNat ≤ 11 := by
  cases r with
  | value v => exact Nat.zero_le 11
  | raw x => exact Nat.zero_le 11
  | fault c => exact c.code_le

/-- Settles O27: R201's table lists every fault status once, under the numbers 1 to 11. -/
theorem statusCodes : Obligations.StatusCodes :=
  ⟨fun _ _ => ⟨rfl, rfl⟩, Response.st_le, fun _ _ h => FaultCode.code_injective h, map_code_statusTable⟩

/-! ### Checks in order (R202) -/

section
variable {s : State} {rest : Result} {c : FaultCode} {k : Byte}

/-- The checks of a list, one after another, in front of the rest of the operation. -/
def runChecks (s : State) (rest : Result) : List (Bool × FaultCode) → Result
  | [] => rest
  | (bad, c) :: l => checkNot bad c s (runChecks s rest l)

/-- Checks in order raise the first fault of their list, and where there is none the operation goes on. -/
theorem runChecks_eq_firstFailing (s : State) (rest : Result) (l : List (Bool × FaultCode)) :
    runChecks s rest l = (firstFailing l).elim rest fun c => raise c s := by
  induction l with
  | nil => rfl
  | cons p l ih =>
    obtain ⟨bad, c⟩ := p
    cases bad with
    | false => exact ih
    | true => rfl

theorem runChecks_append (l l' : List (Bool × FaultCode)) :
    runChecks s rest (l ++ l') = runChecks s (runChecks s rest l') l := by
  induction l with
  | nil => rfl
  | cons p l ih => exact congrArg (checkNot p.1 p.2 s) ih

theorem runChecks_operandCheck (o : Option Value) :
    runChecks s rest (operandCheck o c) = checkRead o c s rest := by
  cases o with
  | none => rfl
  | some v =>
    cases hv : v.valid with
    | false => simp [operandCheck, runChecks, checkNot, checkRead, hv]
    | true => simp [operandCheck, runChecks, checkNot, checkRead, hv]

/-- The check of a width operand as a check of an operation's own (R63). -/
theorem checkWidth_eq_checkNot :
    checkWidth k s rest = checkNot (decide (k.toNat < 1 ∨ 8 < k.toNat)) .badWidth s rest := by
  by_cases h : k.toNat < 1 ∨ 8 < k.toNat
  · rw [checkWidth_of_outside h, checkNot_of_bad (decide_eq_true h)]
  · rw [checkWidth_of_inRange (by omega) (by omega), checkNot_of_good (decide_eq_false h)]

/-- The answer is a result, with the status OK. -/
def Succeeds (s : State) (res : Result) : Prop :=
  (∃ v, res = .next (s.respond (.value v))) ∨ ∃ x, res = .next (s.respond (.raw x))

theorem succeeds_resultValue (m w : Nat) : Succeeds s (resultValue m w s) := .inl ⟨_, rfl⟩

theorem succeeds_resultRaw (x : Nat) : Succeeds s (resultRaw x s) := .inr ⟨_, rfl⟩

/-- Every instruction checks A, then B, then what `ownChecks` lists, and then gives a result. -/
theorem exec_eq_ownChecks (i : Instr) (s : State) : ∃ res, Succeeds s res ∧ exec i s =
    checkRead i.operandA .badOperandA s (checkRead i.operandB .badOperandB s (runChecks s res (ownChecks i))) := by
  cases i with
  | new r k => exact ⟨_, succeeds_resultValue _ _, checkWidth_eq_checkNot⟩
  | trunc r k => exact ⟨_, succeeds_resultValue _ _, checkWidth_eq_checkNot⟩
  | ones k => exact ⟨_, succeeds_resultValue _ _, checkWidth_eq_checkNot⟩
  | cmp a b => exact ⟨_, succeeds_resultRaw _, rfl⟩
  | not a => exact ⟨_, succeeds_resultValue _ _, rfl⟩
  | andv a b => exact ⟨_, succeeds_resultValue _ _, rfl⟩
  | andr a r => exact ⟨_, succeeds_resultValue _ _, rfl⟩
  | or a b => exact ⟨_, succeeds_resultValue _ _, rfl⟩
  | sub a b =>
    refine ⟨_, succeeds_resultValue (subMag a.m b.m a.w) a.w, ?_⟩
    simp only [ownChecks, ne_eq, ← BitVec.toNat_inj]
    rfl
  | sext a k => exact ⟨_, succeeds_resultValue _ _, congrArg (checkA a s) checkWidth_eq_checkNot⟩
  | zext a k => exact ⟨_, succeeds_resultValue _ _, congrArg (checkA a s) checkWidth_eq_checkNot⟩
  | concat a b => exact ⟨_, succeeds_resultValue _ _, rfl⟩
  | width a => exact ⟨_, succeeds_resultRaw _, rfl⟩
  | hsb a =>
    refine ⟨_, succeeds_resultRaw (hsbOf a.m), ?_⟩
    simp only [ownChecks, ← BitVec.toNat_inj]
    rfl
  | rotr a r => exact ⟨_, succeeds_resultValue _ _, rfl⟩
  | repl a r => exact ⟨_, succeeds_resultRaw _, rfl⟩

/-- An instruction raises its first fault in the order of R202, and gives a result where it has none. -/
theorem exec_eq_firstFault (i : Instr) (s : State) : ∃ res, Succeeds s res ∧
    exec i s = (firstFault i).elim res fun c => raise c s := by
  obtain ⟨res, hres, he⟩ := exec_eq_ownChecks i s
  refine ⟨res, hres, ?_⟩
  rw [he, firstFault, ← runChecks_eq_firstFailing, runChecks_append, runChecks_append, runChecks_operandCheck,
    runChecks_operandCheck]

theorem exec_of_firstFault {i : Instr} (h : firstFault i = some c) : exec i s = raise c s := by
  obtain ⟨res, -, he⟩ := exec_eq_firstFault i s
  rw [he, h, Option.elim_some]

/-- A value result is valid, whatever its operands are (R25). -/
theorem exec_of_firstFault_none {i : Instr} (h : firstFault i = none) :
    (∃ v : Value, v.valid = true ∧ exec i s = .next (s.respond (.value v))) ∨
      ∃ x, exec i s = .next (s.respond (.raw x)) := by
  obtain ⟨res, hres, he⟩ := exec_eq_firstFault i s
  rw [h, Option.elim_none] at he
  subst he
  exact hres.imp_left fun ⟨v, hv⟩ => ⟨v, exec_givesValid i s _ v hv rfl, hv⟩

end

/-- Settles O25: a step of an idle state is the decoder's rejection, or the decoded instruction, which runs its checks in
the order of R202. -/
theorem faultPriority : Obligations.FaultPriority := by
  intro s hs
  refine ⟨fun h => ?_, fun i hd => ?_⟩
  · exact hs.step_eq_serve.trans (serve_of_decode_error ((decode_eq_illegalOp_iff s.request).2 h))
  · rw [hs.step_eq_exec hd]
    exact ⟨fun c => exec_of_firstFault, exec_of_firstFault_none⟩

end Sys2Proof.Machine
end

section
/-! PROOFS. Family 70_reset_and_hazards: the response is the request's own whatever went before (R236), and a good run
never presents an operand or an opcode that CORE rejects (R233). A fault status of a run is the first fault of the instruction
its line issued; that instruction's operands are literals or contents of value slots, so they are valid. -/

namespace Sys2Proof.Machine

/-! ### No earlier request matters (R236) -/

/-- Settles O39: `step_answers_of_idle`, with the state's fields written out. -/
theorem responseDependsOnTheRequestAlone : Obligations.ResponseDependsOnTheRequestAlone := step_answers_of_idle

/-! ### The faults of an instruction with valid operands (R202) -/

section
variable {i : Instr} {c : FaultCode}

/-- An instruction can be written in assembly exactly if every value operand it reads is valid. -/
theorem wellFormed_eq_operands (i : Instr) :
    i.wellFormed = (i.operandA.all Value.valid && i.operandB.all Value.valid) := by
  cases i <;> simp [Instr.wellFormed, Instr.operandA, Instr.operandB]

theorem firstFailing_operandCheck_append {o : Option Value} (h : o.all Value.valid = true)
    (l : List (Bool × FaultCode)) : firstFailing (operandCheck o c ++ l) = firstFailing l := by
  cases o with
  | none => rfl
  | some v =>
    have hv : v.valid = true := h
    simp [operandCheck, firstFailing, hv]

theorem firstFault_of_wellFormed (h : i.wellFormed = true) : firstFault i = firstFailing (ownChecks i) := by
  obtain ⟨hA, hB⟩ := Bool.and_eq_true_iff.1 ((wellFormed_eq_operands i).symm.trans h)
  rw [firstFault, List.append_assoc, firstFailing_operandCheck_append hA, firstFailing_operandCheck_append hB]

theorem exists_mem_of_firstFailing {l : List (Bool × FaultCode)} (h : firstFailing l = some c) :
    ∃ p ∈ l, p.2 = c := by
  induction l with
  | nil => cases h
  | cons p l ih =>
    obtain ⟨bad, d⟩ := p
    cases bad with
    | true => exact ⟨_, List.mem_cons_self, Option.some.inj h⟩
    | false =>
      obtain ⟨p, hp, hc⟩ := ih h
      exact ⟨p, List.mem_cons_of_mem _ hp, hc⟩

/-- The status rejects neither the opcode nor a value operand of a request. -/
def FaultCode.AcceptsOperands (c : FaultCode) : Prop := c ≠ .illegalOp ∧ c ≠ .badOperandA ∧ c ≠ .badOperandB

/-- The checks of R202 behind the opcode's and the value operands' have statuses of their own. -/
theorem ownChecks_acceptsOperands (i : Instr) : ∀ p ∈ ownChecks i, p.2.AcceptsOperands := by
  cases i <;> simp [ownChecks, FaultCode.AcceptsOperands]

theorem acceptsOperands_of_firstFault (h : i.wellFormed = true) (hc : firstFault i = some c) : c.AcceptsOperands := by
  rw [firstFault_of_wellFormed h] at hc
  obtain ⟨p, hp, rfl⟩ := exists_mem_of_firstFailing hc
  exact ownChecks_acceptsOperands i p hp

end

/-! ### The instruction a line of a good run issues (R190, R192, R195) -/

/-- What a reading gives, if it gives anything, has the property. -/
def Yields {α : Type} (P : α → Prop) (r : Read α) : Prop := ∀ a, r = .ok a → P a

section
variable {α β : Type} {P : α → Prop} {Q : β → Prop} {r : Read α} {q : Read β}

theorem yields_true : Yields (fun _ => True) r := fun _ _ => trivial

theorem Yields.map {f : α → β} (h : Yields P r) (hf : ∀ a, P a → Q (f a)) : Yields Q (r.map f) := by
  cases r with
  | ok a => exact fun b hb => Except.ok.inj hb ▸ hf a (h a rfl)
  | error e => exact fun b hb => by cases hb

theorem Yields.both (n : Nat) (h : Yields P r) (h' : Yields Q q) : Yields (fun p => P p.1 ∧ Q p.2) (both n r q) := by
  intro p hp
  obtain ⟨hr, hq⟩ := (both_eq_ok_iff n r q p).1 hp
  exact ⟨h p.1 hr, h' p.2 hq⟩

end

section
variable {run : Run} {s t : State} {c : FaultCode} {i : Instr}

/-- A value operand is a slot's content or a literal, and both are valid. -/
theorem readValue_yields_valid (hs : run.SlotsValid) {a : ValueArg} (ha : a.wellFormed = true) :
    Yields (fun v => v.valid = true) (readValue run a) := by
  cases a with
  | slot n => exact fun v hv => hs n v ((readSlot_eq_ok_iff _ _).1 hv)
  | lit u => exact fun v hv => Except.ok.inj hv ▸ ha

/-- An operation of two value operands, both from the run. -/
theorem two_values_yield_wellFormed (hs : run.SlotsValid) {a b : ValueArg} {op : Value → Value → Instr}
    (hop : ∀ u v, (op u v).wellFormed = (u.valid && v.valid)) (h : (a.wellFormed && b.wellFormed) = true) :
    Yields (fun i => i.wellFormed = true)
      ((both run.pc (readValue run a) (readValue run b)).map fun p => op p.1 p.2) := by
  obtain ⟨ha, hb⟩ := Bool.and_eq_true_iff.1 h
  exact ((readValue_yields_valid hs ha).both _ (readValue_yields_valid hs hb)).map fun p hp =>
    (hop p.1 p.2).trans (Bool.and_eq_true_iff.2 hp)

/-- An operation of a value operand from the run and a raw operand. -/
theorem value_and_byte_yield_wellFormed (hs : run.SlotsValid) {a : ValueArg} {b : RawArg}
    {op : Value → Byte → Instr} (hop : ∀ v r, (op v r).wellFormed = v.valid) (ha : a.wellFormed = true) :
    Yields (fun i => i.wellFormed = true)
      ((both run.pc (readValue run a) (readByte run b)).map fun p => op p.1 p.2) :=
  ((readValue_yields_valid hs ha).both _ yields_true).map fun p hp => (hop p.1 p.2).trans hp.1

theorem resolveValueForm_yields_wellFormed (hs : run.SlotsValid) {f : ValueForm} (hf : f.wellFormed = true) :
    Yields (fun i => i.wellFormed = true) (resolveValueForm run f) := by
  cases f with
  | new m w => exact yields_true.map fun _ _ => rfl
  | trunc m w => exact yields_true.map fun _ _ => rfl
  | ones w => exact yields_true.map fun _ _ => rfl
  | not a => exact (readValue_yields_valid hs hf).map fun _ hv => hv
  | andv a b => exact two_values_yield_wellFormed hs (fun _ _ => rfl) hf
  | andr a r => exact value_and_byte_yield_wellFormed hs (fun _ _ => rfl) hf
  | or a b => exact two_values_yield_wellFormed hs (fun _ _ => rfl) hf
  | sub a b => exact two_values_yield_wellFormed hs (fun _ _ => rfl) hf
  | sext a w => exact value_and_byte_yield_wellFormed hs (fun _ _ => rfl) hf
  | zext a w => exact value_and_byte_yield_wellFormed hs (fun _ _ => rfl) hf
  | concat a b => exact two_values_yield_wellFormed hs (fun _ _ => rfl) hf
  | rotr a n => exact value_and_byte_yield_wellFormed hs (fun _ _ => rfl) hf

theorem resolveRawForm_yields_wellFormed (hs : run.SlotsValid) {f : RawForm} (hf : f.wellFormed = true) :
    Yields (fun i => i.wellFormed = true) (resolveRawForm run f) := by
  cases f with
  | cmp a b => exact two_values_yield_wellFormed hs (fun _ _ => rfl) hf
  | width a => exact (readValue_yields_valid hs hf).map fun _ hv => hv
  | hsb a => exact (readValue_yields_valid hs hf).map fun _ hv => hv
  | repl a n => exact value_and_byte_yield_wellFormed hs (fun _ _ => rfl) hf

/-- The line issues the instruction to CORE (R193). -/
def Issues (run : Run) (i : Instr) : Line → Prop
  | .issueV _ f => resolveValueForm run f = .ok i
  | .issueX _ f => resolveRawForm run f = .ok i
  | .arith _ _ | .beq _ _ _ | .bne _ _ _ | .jmp _ | .haltIfEq _ _ | .halt => False

theorem Issues.wellFormed {l : Line} {n : Nat} (h : Issues run i l) (hs : run.SlotsValid)
    (hl : l.wellFormed n = true) : i.wellFormed = true := by
  cases l with
  | issueV d f => exact resolveValueForm_yields_wellFormed hs hl i h
  | issueX d f => exact resolveRawForm_yields_wellFormed hs hl i h
  | _ => exact h.elim

/-! ### Where the fault status of a run comes from (R193, R198) -/

/-- The run of the state has ended with the fault status. -/
def State.FaultedWith (s : State) (c : FaultCode) : Prop := ∃ run n, s.run = some run ∧ run.status = .fault c n

theorem State.faultedWith_setRun_iff : (s.setRun (some run)).FaultedWith c ↔ ∃ n, run.status = .fault c n := by
  simp [State.FaultedWith]

/-- A line that touches only the run stops it with a host fault, or goes on with a run computed from what it reads. -/
theorem not_faultedWith_of_hostLine {α : Type} {r : Read α} {f : α → Run} (hf : ∀ a n, (f a).status ≠ .fault c n)
    (h : hostLine run (r.map f) s = .next t) : ¬ t.FaultedWith c := by
  cases r with
  | ok a => cases h; simpa [State.faultedWith_setRun_iff] using hf a
  | error e => cases h; simp [State.faultedWith_setRun_iff]

/-- A block-issue line passes on the first fault of its instruction, and no other status. -/
theorem firstFault_of_issue {r : Read Instr} {write : Response → Run} (hw : ∀ res n, (write res).status ≠ .fault c n)
    (h : issue run r write s = .next t) (hc : t.FaultedWith c) : ∃ i, r = .ok i ∧ firstFault i = some c := by
  cases r with
  | error e =>
    cases h
    simp [State.faultedWith_setRun_iff] at hc
  | ok i =>
    refine ⟨i, rfl, ?_⟩
    cases hd : firstFault i with
    | some d =>
      rw [issue_of_exec (exec_of_firstFault hd)] at h
      cases h
      simpa [State.faultedWith_setRun_iff, finishIssue] using hc
    | none =>
      obtain ⟨v, -, hx⟩ | ⟨x, hx⟩ := exec_of_firstFault_none (s := s.present (encode i)) hd <;>
      · rw [issue_of_exec hx] at h
        cases h
        obtain ⟨n, hn⟩ := State.faultedWith_setRun_iff.1 hc
        exact absurd hn (hw _ n)

/-- Only a block-issue line ends its run with a fault status, and the status is its instruction's first fault. -/
theorem firstFault_of_runLine {l : Line} (hst : run.status = .running) (h : runLine run l s = .next t)
    (hc : t.FaultedWith c) : ∃ i, Issues run i l ∧ firstFault i = some c := by
  cases l with
  | issueV d f => exact firstFault_of_issue (fun _ _ => by simp [hst]) h hc
  | issueX d f => exact firstFault_of_issue (fun _ _ => by simp [hst]) h hc
  | arith d e => exact absurd hc (not_faultedWith_of_hostLine (fun _ _ => by simp [hst]) h)
  | beq a b n => exact absurd hc (not_faultedWith_of_hostLine (fun e _ => by cases e <;> simp [hst]) h)
  | bne a b n => exact absurd hc (not_faultedWith_of_hostLine (fun e _ => by cases e <;> simp [hst]) h)
  | haltIfEq a b => exact absurd hc (not_faultedWith_of_hostLine (fun e _ => by cases e <;> simp [hst]) h)
  | jmp n =>
    cases h
    simp [State.faultedWith_setRun_iff, hst] at hc
  | halt =>
    cases h
    simp [State.faultedWith_setRun_iff] at hc

theorem acceptsOperands_of_stepRun (hg : run.Good) (hst : run.status = .running) (h : stepRun run s = .next t)
    (hc : t.FaultedWith c) : c.AcceptsOperands := by
  obtain ⟨hp, hslots, -⟩ := hg
  obtain rfl | ⟨l, hl, h⟩ := stepRun_next h
  · simp [State.faultedWith_setRun_iff] at hc
  · have hwf : l.wellFormed run.program.length = true := List.all_eq_true.1 hp l (List.mem_of_getElem? hl)
    obtain ⟨i, hi, hfirst⟩ := firstFault_of_runLine hst h hc
    exact acceptsOperands_of_firstFault (hi.wellFormed hslots hwf) hfirst

end

/-- Settles O55: `acceptsOperands_of_stepRun`. -/
theorem goodRunsNeverPresentBadOperands : Obligations.GoodRunsNeverPresentBadOperands := by
  intro s t run run' c n hs hrun hst h hrun' hst'
  rw [step_eq_stepRun hrun hst] at h
  exact acceptsOperands_of_stepRun (hs run hrun) hst h ⟨run', n, hrun', hst'⟩

end Sys2Proof.Machine
end
